-- ==== Sys2Proof/Word.lean ====
section
/-! DEFINITION. The words of the engine's command port and of its wire data, and the verdict operand. -/

namespace Sys2Proof

/-- A command word (30_encoding.md R70). Bit 0 is the least significant bit (00_scope.md R7). -/
abbrev Word := BitVec 32

/-- A byte of wire data. Stream bit 0 is its most significant bit (00_scope.md R8). -/
abbrev Byte := BitVec 8

/-- The data of a response (30_encoding.md R78). -/
abbrev Data := BitVec 64

/-- The host's report of what its decode of a held frame did (42_framer.md R163).
The two-bit code 3 is illegal (30_encoding.md R72, R74) and has no constructor. -/
inductive Verdict where
  | ok
  | okStop
  | fail
deriving DecidableEq, Repr

end Sys2Proof
end

