-- ==== Sys2Proof/Syntax.lean ====
section
/-! DEFINITION. The commands of the engine: one constructor per row of the opcode map (30_encoding.md R73). -/

namespace Sys2Proof

/-- A command. Operands are named as in 30_encoding.md R71 and R72; every one is unsigned. -/
inductive Instr where
  /-- NOP (43_control.md R200). -/
  | nop
  /-- RESET (43_control.md R201). -/
  | reset
  /-- CRC_INIT (41_crc24q.md R133). -/
  | crcInit
  /-- CRC_BYTE b (41_crc24q.md R134). -/
  | crcByte (byte : Byte)
  /-- CRC_RD (41_crc24q.md R135). -/
  | crcRd
  /-- FRM_RESET (42_framer.md R160). -/
  | frmReset
  /-- FRM_PUSH b (42_framer.md R161). -/
  | frmPush (byte : Byte)
  /-- FRM_EOD (42_framer.md R162). -/
  | frmEod
  /-- FRM_ACK v (42_framer.md R163). -/
  | frmAck (verd : Verdict)
  /-- FRM_STATUS (42_framer.md R164). -/
  | frmStatus
  /-- FRM_ERRCNT (42_framer.md R165). -/
  | frmErrcnt
  /-- FRM_RDPAY i (42_framer.md R166). -/
  | frmRdpay (idx : BitVec 10)
  /-- CUR_CLEAR (40_bit_cursor.md R101). -/
  | curClear
  /-- CUR_APPEND b (40_bit_cursor.md R102). -/
  | curAppend (byte : Byte)
  /-- CUR_ATTACH (40_bit_cursor.md R103). -/
  | curAttach
  /-- CUR_RDU n (40_bit_cursor.md R104). -/
  | curRdu (n : BitVec 7)
  /-- CUR_RDS n (40_bit_cursor.md R105). -/
  | curRds (n : BitVec 7)
  /-- CUR_SKIP n (40_bit_cursor.md R106). -/
  | curSkip (sn : BitVec 14)
  /-- CUR_STATUS (40_bit_cursor.md R107). -/
  | curStatus
deriving DecidableEq, Repr

end Sys2Proof
end

