-- ==== Sys2Proof/WellFormed.lean ====
section
/-! DEFINITION. Which commands have a word: the operand check that the operands' widths do not make by themselves. -/

namespace Sys2Proof

/-- The legal bit counts of a cursor read (30_encoding.md R72, R74 item 4): 0 to 64. -/
abbrev legalWidth (n : BitVec 7) : Bool := n.toNat ≤ 64

/-- A command is well formed when its operands are legal (30_encoding.md R74). -/
def Instr.wf : Instr → Bool
  | .nop => true
  | .reset => true
  | .crcInit => true
  | .crcByte _ => true
  | .crcRd => true
  | .frmReset => true
  | .frmPush _ => true
  | .frmEod => true
  | .frmAck _ => true
  | .frmStatus => true
  | .frmErrcnt => true
  | .frmRdpay _ => true
  | .curClear => true
  | .curAppend _ => true
  | .curAttach => true
  | .curRdu n => legalWidth n
  | .curRds n => legalWidth n
  | .curSkip _ => true
  | .curStatus => true

end Sys2Proof
end

