-- ==== Sys2Proof/Decode.lean ====
section
/-! DEFINITION. Decoding of command words, total on all 2^32 of them and rejecting by name (30_encoding.md R70 to R77),
and after it the encoder, written from the same tables (R71, R73). -/

namespace Sys2Proof

/-- Why a word is illegal: the four causes of 30_encoding.md R74, in the order R75 checks them. -/
inductive DecodeError where
  /-- R74 item 1: OP is not in the opcode map. -/
  | unknownOpcode
  /-- R74 item 2: a reserved bit of the format is 1. -/
  | reservedBit
  /-- R74 item 3: format V and VERD = 3. -/
  | illegalVerdict
  /-- R74 item 4: format W and N > 64. -/
  | illegalWidth
deriving DecidableEq, Repr

/-- OP, bits 31:26 (R70). -/
def opcodeField (w : Word) : BitVec 6 := w.extractLsb' 26 6

/-- The operand field of width fw, bits fw-1:0 (R71). -/
def operandField (fw : Nat) (w : Word) : BitVec fw := w.extractLsb' 0 fw

/-- Every reserved bit of a format whose field is fw bits wide, bits 25:fw, is 0 (R71, R75). -/
def reservedClear (fw : Nat) (w : Word) : Bool := w.extractLsb' fw (26 - fw) == 0

/-- The three legal codes of VERD (R72). -/
def decodeVerdict (v : BitVec 2) : Option Verdict :=
  match v.toNat with
  | 0 => some .ok
  | 1 => some .okStop
  | 2 => some .fail
  | _ => none

/-- Format Z (R71). -/
def decodeZ (w : Word) (i : Instr) : Except DecodeError Instr :=
  if reservedClear 0 w then .ok i else .error .reservedBit

/-- Format B (R71). -/
def decodeB (w : Word) (mk : Byte → Instr) : Except DecodeError Instr :=
  if reservedClear 8 w then .ok (mk (operandField 8 w)) else .error .reservedBit

/-- Format V (R71). -/
def decodeV (w : Word) (mk : Verdict → Instr) : Except DecodeError Instr :=
  if reservedClear 2 w then
    match decodeVerdict (operandField 2 w) with
    | some v => .ok (mk v)
    | none => .error .illegalVerdict
  else .error .reservedBit

/-- Format I (R71). -/
def decodeI (w : Word) (mk : BitVec 10 → Instr) : Except DecodeError Instr :=
  if reservedClear 10 w then .ok (mk (operandField 10 w)) else .error .reservedBit

/-- Format W (R71). -/
def decodeW (w : Word) (mk : BitVec 7 → Instr) : Except DecodeError Instr :=
  if reservedClear 7 w then
    if legalWidth (operandField 7 w) then .ok (mk (operandField 7 w)) else .error .illegalWidth
  else .error .reservedBit

/-- Format S (R71). -/
def decodeS (w : Word) (mk : BitVec 14 → Instr) : Except DecodeError Instr :=
  if reservedClear 14 w then .ok (mk (operandField 14 w)) else .error .reservedBit

/-- The opcode map (R73) and the decoding function (R75). -/
def decode (w : Word) : Except DecodeError Instr :=
  match (opcodeField w).toNat with
  | 0x00 => decodeZ w .nop
  | 0x01 => decodeZ w .reset
  | 0x08 => decodeZ w .crcInit
  | 0x09 => decodeB w .crcByte
  | 0x0A => decodeZ w .crcRd
  | 0x10 => decodeZ w .frmReset
  | 0x11 => decodeB w .frmPush
  | 0x12 => decodeZ w .frmEod
  | 0x13 => decodeV w .frmAck
  | 0x14 => decodeZ w .frmStatus
  | 0x15 => decodeZ w .frmErrcnt
  | 0x16 => decodeI w .frmRdpay
  | 0x20 => decodeZ w .curClear
  | 0x21 => decodeB w .curAppend
  | 0x22 => decodeZ w .curAttach
  | 0x23 => decodeW w .curRdu
  | 0x24 => decodeW w .curRds
  | 0x25 => decodeS w .curSkip
  | 0x26 => decodeZ w .curStatus
  | _ => .error .unknownOpcode

/-- The command word of a row of the opcode table: the table's bits, numbered from bit 0 as R7 numbers them. A command is
one 32-bit word (R77), and words are not stored in any buffer (20_memory.md), so there is no byte order to undo. -/
def tableWord (nbits w : Nat) : Word := BitVec.ofNat 32 (w % 2 ^ nbits)

/-- What the decoder reads from an instruction whose bits are w. -/
def decodeTableWord (nbits w : Nat) : Option Instr :=
  if w % 2 ^ nbits < 2 ^ 32 then (decode (tableWord nbits w)).toOption else none

/-- OP of each command (R73). -/
def Instr.opcode : Instr → BitVec 6
  | .nop => 0x00
  | .reset => 0x01
  | .crcInit => 0x08
  | .crcByte _ => 0x09
  | .crcRd => 0x0A
  | .frmReset => 0x10
  | .frmPush _ => 0x11
  | .frmEod => 0x12
  | .frmAck _ => 0x13
  | .frmStatus => 0x14
  | .frmErrcnt => 0x15
  | .frmRdpay _ => 0x16
  | .curClear => 0x20
  | .curAppend _ => 0x21
  | .curAttach => 0x22
  | .curRdu _ => 0x23
  | .curRds _ => 0x24
  | .curSkip _ => 0x25
  | .curStatus => 0x26

/-- VERD of each verdict (R72). -/
def Verdict.code : Verdict → BitVec 2
  | .ok => 0
  | .okStop => 1
  | .fail => 2

/-- Bits 25:0 of each command: its field zero-extended, the reserved bits 0 (R71, R72). -/
def Instr.operandArea : Instr → BitVec 26
  | .nop => 0
  | .reset => 0
  | .crcInit => 0
  | .crcByte b => b.setWidth 26
  | .crcRd => 0
  | .frmReset => 0
  | .frmPush b => b.setWidth 26
  | .frmEod => 0
  | .frmAck v => v.code.setWidth 26
  | .frmStatus => 0
  | .frmErrcnt => 0
  | .frmRdpay i => i.setWidth 26
  | .curClear => 0
  | .curAppend b => b.setWidth 26
  | .curAttach => 0
  | .curRdu n => n.setWidth 26
  | .curRds n => n.setWidth 26
  | .curSkip n => n.setWidth 26
  | .curStatus => 0

/-- The word of a command: `(OP << 26) | fields` (R73). -/
def encode (i : Instr) : Word := i.opcode ++ i.operandArea

end Sys2Proof
end

