-- ==== Sys2Proof/Config.lean ====
section
/-! DEFINITION. What one engine fixes (its buffer capacities) and the one value the spec leaves free. -/

namespace Sys2Proof

/-- The two parameters of an engine (00_scope.md R6; OPEN in 92_eei_decisions.md D8 and D18). -/
structure Config where
  /-- BUF_CAP, capacity of FBUF in bytes. -/
  bufCap : Nat
  /-- CUR_CAP, capacity of CBUF in bytes. -/
  curCap : Nat
deriving DecidableEq, Repr

/-- The defaults of 00_scope.md R6, which the spec's test vectors use. -/
def Config.default : Config := { bufCap := 2048, curCap := 1024 }

/-- The legal ranges of 00_scope.md R6. -/
abbrev Config.Legal (c : Config) : Prop :=
  1029 ≤ c.bufCap ∧ c.bufCap ≤ 65535 ∧ 1023 ≤ c.curCap ∧ c.curCap ≤ 8191

/-- FREE VALUE: the byte of buffer storage at an index at or beyond the buffer's count. The spec leaves it
unspecified and no command reads it (10_state.md R34; 93_implementation_defined.md; log entry 5). -/
opaque Config.unwrittenByte : Nat → Byte

end Sys2Proof
end

