-- ==== Sys2Proof/Machine/State.lean ====
section
/-! DEFINITION. The state of the engine as plain data, its responses, the reasons a step could stop, and reset. -/

namespace Sys2Proof.Machine

/-- The status codes a response can carry (60_exceptions.md R221). Codes 8 to 15 are never produced and have no
constructor; `Status.code` in Machine/Flags.lean gives the 4-bit codes. -/
inductive Status where
  | ok
  | illegal
  | outOfBits
  | noFrame
  | full
  | halted
  | ended
  | range
deriving DecidableEq, Repr

/-- The one response of a command: a status and 64 bits of data (30_encoding.md R78). -/
structure Response where
  status : Status
  data : Data
deriving DecidableEq, Repr

/-- The framer's state (10_state.md R20, R23 to R28). `bcnt` is the length of `fbuf` (R27). -/
structure Framer where
  /-- `sync`: false is NOSYNC, true is SYNCED (R23). -/
  sync : Bool
  /-- `frame_ready`: a frame has passed its CRC check and is held (R24). -/
  frameReady : Bool
  /-- `flen`: the held frame's length field L, 0 while none is held (R24). -/
  flen : BitVec 10
  /-- `halted`: a frame was acknowledged OK_STOP (R25). -/
  halted : Bool
  /-- `eod`: the host has issued FRM_EOD (R26). -/
  eod : Bool
  /-- `ended`: end of data has been taken (R26). -/
  ended : Bool
  /-- `error_count`: CRC mismatches and FAIL verdicts, modulo 2^64 (R28). -/
  errorCount : BitVec 64
  /-- `FBUF`: the buffered stream bytes, the oldest first (R27). -/
  fbuf : List Byte
deriving DecidableEq, Repr

/-- The bit cursor's state (10_state.md R20, R30, R31). `clen` is the length of `cbuf` (R30). -/
structure Cursor where
  /-- `CBUF`: byte 0 holds stream bits 0 to 7 (R30). -/
  cbuf : List Byte
  /-- `cpos`: the stream bit the next read consumes first (R31). -/
  cpos : BitVec 16
deriving DecidableEq, Repr

/-- The engine with its parameters and its command port. The first four fields are everything the spec gives the
machine (10_state.md R20) and its parameters (00_scope.md R6); the last two are the port's (log entries 1 and 2). -/
structure State where
  /-- `BUF_CAP` and `CUR_CAP`, fixed for one engine: no step changes them (log entry 3). -/
  cfg : Config
  /-- `crc_reg`: the CRC unit's running remainder (R22). -/
  crcReg : BitVec 24
  frm : Framer
  cur : Cursor
  /-- The command words the host has yet to issue, the next one first (00_scope.md R10; 20_memory.md R55). -/
  port : List Word
  /-- The response to the last command performed; none when no command has been performed (30_encoding.md R78). -/
  resp : Option Response
deriving DecidableEq, Repr

/-- The engine has no fault: "no status stops the engine" (60_exceptions.md R220, R227). Nothing raises one. -/
inductive Fault
deriving DecidableEq, Repr

/-- Why a step could be refused. The engine itself refuses nothing: a command it cannot perform is answered with a
status (60_exceptions.md R221, R222). -/
inductive Refusal where
  /-- Raised only by an arm of exec whose instruction has no meaning yet, which no arm is. Safe: the model stops. -/
  | notModelled (mnemonic : String)
deriving DecidableEq, Repr

/-- The framer's reset values (10_state.md R34). -/
def Framer.reset : Framer :=
  { sync := false, frameReady := false, flen := 0, halted := false, eod := false, ended := false,
    errorCount := 0, fbuf := [] }

/-- The cursor's reset values (10_state.md R34). -/
def Cursor.reset : Cursor := { cbuf := [], cpos := 0 }

/-- An engine with the given parameters right after power-on reset (10_state.md R34; 70_reset_and_hazards.md R250),
no command issued yet. -/
def State.resetWith (cfg : Config) : State :=
  { cfg := cfg, crcReg := 0, frm := Framer.reset, cur := Cursor.reset, port := [], resp := none }

/-- The engine with the default parameters (00_scope.md R6) right after power-on reset. -/
def State.reset : State := State.resetWith Config.default

end Sys2Proof.Machine
end

