-- ==== Sys2Proof/Machine/Ops.lean ====
section
/-! DEFINITION. The named operations over the port, the responses and the two byte buffers. A command that cannot be
performed raises a status; that is the engine's only exception mechanism (00_scope.md R9; 60_exceptions.md R220). -/

namespace Sys2Proof.Machine

/-- The state with the answer (st, d) given at the port, nothing else changed. -/
def State.answer (s : State) (st : Status) (d : Data) : State := { s with resp := some ⟨st, d⟩ }

/-- `respond(data)` of 00_scope.md R9: the command ends with the response (OK, data) and its state writes made. -/
def State.respond (s : State) (d : Data) : Host.Outcome State Fault Refusal := .next (s.answer .ok d)

/-- `raise Status(code)` of 00_scope.md R9: the command ends with the response (code, 0); applied to the state before
the command, it leaves every piece of engine state as it was (60_exceptions.md R222). -/
def State.raise (s : State) (st : Status) : Host.Outcome State Fault Refusal := .next (s.answer st 0)

/-- The next command word the host issues, and the state in which it is performed; none when no word is pending
(00_scope.md R10; 20_memory.md R55). -/
def State.takeCommand (s : State) : Option (Word × State) :=
  match s.port with
  | [] => none
  | w :: rest => some (w, { s with port := rest })

/-- Byte i of a buffer. At or beyond the buffer's count it is the free value, which no command reads (10_state.md R34). -/
def byteAt (buf : List Byte) (i : Nat) : Byte := buf[i]?.getD (Config.unwrittenByte i)

/-- `bcnt` (10_state.md R27). -/
abbrev Framer.bcnt (f : Framer) : Nat := f.fbuf.length

/-- `FBUF[i]` (00_scope.md R9). -/
def Framer.byte (f : Framer) (i : Nat) : Byte := byteAt f.fbuf i

/-- `FBUF.append(b)` (00_scope.md R9). -/
def Framer.append (f : Framer) (b : Byte) : Framer := { f with fbuf := f.fbuf ++ [b] }

/-- `FBUF.drop(k)`: removes the k oldest bytes (42_framer.md R152). -/
def Framer.drop (f : Framer) (k : Nat) : Framer := { f with fbuf := f.fbuf.drop k }

/-- `clen` (10_state.md R30). -/
abbrev Cursor.clen (c : Cursor) : Nat := c.cbuf.length

/-- `CBUF[i]` (00_scope.md R9). -/
def Cursor.byte (c : Cursor) (i : Nat) : Byte := byteAt c.cbuf i

/-- `CBUF.append(b)` (00_scope.md R9; 40_bit_cursor.md R102): cpos is unchanged. -/
def Cursor.append (c : Cursor) (b : Byte) : Cursor := { c with cbuf := c.cbuf ++ [b] }

/-- Consuming n bits: `cpos <- cpos + n` (40_bit_cursor.md R100). -/
def Cursor.advance (c : Cursor) (n : Nat) : Cursor := { c with cpos := c.cpos + BitVec.ofNat 16 n }

/-- The two storage spaces are within their capacities (20_memory.md R50; 10_state.md R27, R30). A buffer is the list of
its valid bytes, index 0 first, so equal buffers are equal lists (log entry 4). -/
abbrev Memory.wf (s : State) : Prop :=
  s.frm.bcnt ≤ s.cfg.bufCap ∧ s.cur.clen ≤ s.cfg.curCap

/-- `frame_ready_out` (10_state.md R32). -/
def State.frameReadyOut (s : State) : Bool := s.frm.frameReady

/-- `in_ready_out` (10_state.md R32). -/
def State.inReadyOut (s : State) : Bool :=
  !s.frm.halted && !s.frm.eod && decide (s.frm.bcnt < s.cfg.bufCap)

end Sys2Proof.Machine
end

