-- ==== Sys2Proof/Machine/Control.lean ====
section
/-! DEFINITION. The control commands (43_control.md R200, R201). -/

namespace Sys2Proof.Machine

/-- NOP (43_control.md R200). -/
def execNop (s : State) : Host.Outcome State Fault Refusal := s.respond 0

/-- RESET (43_control.md R201): every unit is reset; the engine's parameters and the host's later commands are not. -/
def execReset (s : State) : Host.Outcome State Fault Refusal :=
  State.respond { s with crcReg := 0, frm := Framer.reset, cur := Cursor.reset } 0

end Sys2Proof.Machine
end

