-- ==== Sys2Proof/Machine/Operands.lean ====
section
/-! DEFINITION. How operands are read: cursor fields of 0 to 64 bits with their extensions, the frame's length field,
received CRC and payload bytes. -/

namespace Sys2Proof.Machine

/-- Stream bit k of a byte sequence: bit `7 - (k mod 8)` of byte `k div 8` (00_scope.md R8). -/
def streamBit (buf : List Byte) (k : Nat) : Bool := (byteAt buf (k / 8)).getLsbD (7 - k % 8)

/-- `field(p, n)` of 40_bit_cursor.md R100: the n stream bits from p on as an unsigned number, the first bit the most
significant. -/
def field (buf : List Byte) (p : Nat) : Nat → Nat
  | 0 => 0
  | n + 1 => 2 * field buf p n + (streamBit buf (p + n)).toNat

/-- The bits remaining, `8*clen - cpos` (10_state.md R31). -/
def Cursor.remaining (c : Cursor) : Nat := 8 * c.clen - c.cpos.toNat

/-- The next n bits at cpos (40_bit_cursor.md R104, R105). -/
def Cursor.peek (c : Cursor) (n : Nat) : Nat := field c.cbuf c.cpos.toNat n

/-- `zext_64(v)` (00_scope.md R9). -/
def zext64 (v : Nat) : Data := BitVec.ofNat 64 v

/-- `sext_64(v, n)` (00_scope.md R9): `v - 2^n` if n > 0 and `v[n-1] = 1`, else v, modulo 2^64. -/
def sext64 (v n : Nat) : Data :=
  if 0 < n ∧ v.testBit (n - 1) then BitVec.ofInt 64 ((v : Int) - 2 ^ n) else BitVec.ofNat 64 v

/-- The length field L of the candidate frame at the front of FBUF: `FBUF[1][1:0] ++ FBUF[2]` (20_memory.md R51;
42_framer.md R150). -/
def Framer.lengthField (f : Framer) : BitVec 10 := (f.byte 1).extractLsb' 0 2 ++ f.byte 2

/-- The received CRC of a frame with L payload bytes: `FBUF[3+L] ++ FBUF[4+L] ++ FBUF[5+L]` (20_memory.md R51). -/
def Framer.receivedCrc (f : Framer) (l : Nat) : BitVec 24 := f.byte (3 + l) ++ f.byte (4 + l) ++ f.byte (5 + l)

/-- Payload byte j of the held frame: `FBUF[3 + j]` (20_memory.md R61). -/
def Framer.payloadByte (f : Framer) (j : Nat) : Byte := f.byte (3 + j)

/-- The payload of the held frame: bytes 0 to flen - 1 (42_framer.md R151). -/
def Framer.payload (f : Framer) : List Byte := (List.range f.flen.toNat).map f.payloadByte

end Sys2Proof.Machine
end

