-- ==== Sys2Proof/Machine/Flags.lean ====
section
/-! DEFINITION. Status codes, the flags computed from the state and the layouts of the status words. -/

namespace Sys2Proof.Machine

/-- The 4-bit code of each status (60_exceptions.md R221). -/
def Status.code : Status → BitVec 4
  | .ok => 0
  | .illegal => 1
  | .outOfBits => 2
  | .noFrame => 3
  | .full => 4
  | .halted => 5
  | .ended => 6
  | .range => 7

/-- `type_valid(S)` (10_state.md R29). -/
def Framer.typeValid (f : Framer) : Bool := f.frameReady && decide (2 ≤ f.flen.toNat)

/-- `msg_type(S)`: the first 12 stream bits of the payload, 0 when there is no valid type (10_state.md R29). -/
def Framer.msgType (f : Framer) : BitVec 12 :=
  if f.typeValid then f.byte 3 ++ (f.byte 4).extractLsb' 4 4 else 0

/-- The FRM_STATUS word (42_framer.md R164; layout 10_state.md R35). -/
def Framer.statusWord (f : Framer) : Data :=
  (BitVec.ofNat 16 f.bcnt ++ 0#2 ++ f.flen ++ f.msgType ++ 0#2 ++ BitVec.ofBool f.typeValid ++ BitVec.ofBool f.ended
    ++ BitVec.ofBool f.eod ++ BitVec.ofBool f.halted ++ BitVec.ofBool f.frameReady ++ BitVec.ofBool f.sync).setWidth 64

/-- The CUR_STATUS word (40_bit_cursor.md R107; layout 10_state.md R36). -/
def Cursor.statusWord (c : Cursor) : Data := (BitVec.ofNat 16 c.clen ++ c.cpos).setWidth 64

/-- The CRC_RD word (41_crc24q.md R135; layout 10_state.md R37). -/
def crcWord (c : BitVec 24) : Data := c.setWidth 64

end Sys2Proof.Machine
end

