-- ==== Sys2Proof/Machine/Cursor.lean ====
section
/-! DEFINITION. The bit cursor's commands (40_bit_cursor.md R101 to R107). -/

namespace Sys2Proof.Machine

/-- CUR_CLEAR (40_bit_cursor.md R101). -/
def execCurClear (s : State) : Host.Outcome State Fault Refusal := State.respond { s with cur := Cursor.reset } 0

/-- CUR_APPEND b (40_bit_cursor.md R102). -/
def execCurAppend (b : Byte) (s : State) : Host.Outcome State Fault Refusal :=
  if s.cur.clen = s.cfg.curCap then s.raise .full
  else State.respond { s with cur := s.cur.append b } 0

/-- CUR_ATTACH (40_bit_cursor.md R103). -/
def execCurAttach (s : State) : Host.Outcome State Fault Refusal :=
  if s.frm.frameReady then State.respond { s with cur := { cbuf := s.frm.payload, cpos := 0 } } 0
  else s.raise .noFrame

/-- A read or skip of n bits with its result as a function of the cursor before it: the out-of-bits check comes first, and
a command that raises it moves nothing (40_bit_cursor.md R108). -/
def State.consumeBits (s : State) (n : Nat) (result : Cursor → Data) : Host.Outcome State Fault Refusal :=
  if s.cur.remaining < n then s.raise .outOfBits
  else State.respond { s with cur := s.cur.advance n } (result s.cur)

/-- CUR_RDU n (40_bit_cursor.md R104). A count above 64 is no command and is answered as its word is (30_encoding.md R74;
log entry 9). -/
def execCurRdu (n : BitVec 7) (s : State) : Host.Outcome State Fault Refusal :=
  if legalWidth n then s.consumeBits n.toNat (fun c => zext64 (c.peek n.toNat)) else s.raise .illegal

/-- CUR_RDS n (40_bit_cursor.md R105). A count above 64 is no command and is answered as its word is (30_encoding.md R74;
log entry 9). -/
def execCurRds (n : BitVec 7) (s : State) : Host.Outcome State Fault Refusal :=
  if legalWidth n then s.consumeBits n.toNat (fun c => sext64 (c.peek n.toNat) n.toNat) else s.raise .illegal

/-- CUR_SKIP n (40_bit_cursor.md R106). -/
def execCurSkip (sn : BitVec 14) (s : State) : Host.Outcome State Fault Refusal :=
  s.consumeBits sn.toNat (fun _ => 0)

/-- CUR_STATUS (40_bit_cursor.md R107). -/
def execCurStatus (s : State) : Host.Outcome State Fault Refusal := s.respond s.cur.statusWord

end Sys2Proof.Machine
end

