-- ==== Sys2Proof/Machine/Crc.lean ====
section
/-! DEFINITION. CRC-24Q (41_crc24q.md R130) and the CRC unit's commands. -/

namespace Sys2Proof.Machine

/-- The polynomial with its x^24 term (41_crc24q.md R130, R131). -/
def crcPoly : BitVec 25 := 0x1864CFB

/-- One of the eight shifts of R130's inner loop, on the 25-bit working value. -/
def crcShift (c : BitVec 25) : BitVec 25 :=
  let c := c <<< 1
  if c.getLsbD 24 then c ^^^ crcPoly else c

/-- k shifts of R130's inner loop. -/
def crcShifts : Nat → BitVec 25 → BitVec 25
  | 0, c => c
  | k + 1, c => crcShifts k (crcShift c)

/-- The body of R130's outer loop: the byte enters at bits 23:16, then eight shifts. -/
def crcFeed (c : BitVec 25) (b : Byte) : BitVec 25 := crcShifts 8 (c ^^^ (b.setWidth 25 <<< 16))

/-- `crc24q` (R130): from 0, every byte in order, the low 24 bits at the end. -/
def crc24q (bs : List Byte) : BitVec 24 := (bs.foldl crcFeed 0).setWidth 24

/-- One byte fed to the 24-bit register (41_crc24q.md R134); `step(c, b)` of R132. -/
def crcStep (c : BitVec 24) (b : Byte) : BitVec 24 := (crcFeed (c.setWidth 25) b).setWidth 24

/-- The three result bytes in the order sent (41_crc24q.md R136). -/
def crcBytes (c : BitVec 24) : List Byte := [c.extractLsb' 16 8, c.extractLsb' 8 8, c.extractLsb' 0 8]

/-- CRC_INIT (41_crc24q.md R133). -/
def execCrcInit (s : State) : Host.Outcome State Fault Refusal := State.respond { s with crcReg := 0 } 0

/-- CRC_BYTE b (41_crc24q.md R134). -/
def execCrcByte (b : Byte) (s : State) : Host.Outcome State Fault Refusal :=
  State.respond { s with crcReg := crcStep s.crcReg b } 0

/-- CRC_RD (41_crc24q.md R135). -/
def execCrcRd (s : State) : Host.Outcome State Fault Refusal := s.respond (crcWord s.crcReg)

end Sys2Proof.Machine
end

