-- ==== Sys2Proof/Machine/Settle.lean ====
section
/-! DEFINITION. The framer's state machine: `settle` (42_framer.md R152 to R158). -/

namespace Sys2Proof.Machine

/-- The preamble byte (00_scope.md R5; 42_framer.md R150). -/
def preamble : Byte := 0xD3

/-- What one pass of settle's loop does: exit the loop, or go round again (42_framer.md R152). -/
inductive Pass where
  | exit (f : Framer)
  | again (f : Framer)
deriving DecidableEq, Repr

/-- The CRC the framer computes over `FBUF[0 .. 3+L-1]` (42_framer.md R156). -/
def Framer.computedCrc (f : Framer) (l : Nat) : BitVec 24 := crc24q (f.fbuf.take (3 + l))

/-- A pass in NOSYNC (42_framer.md R153): drop what stands before the first preamble and go to SYNCED, or drop every byte
scanned and wait. -/
def Framer.scan (f : Framer) : Pass :=
  match f.fbuf.findIdx? (fun b => b == preamble) with
  | none => .exit (f.drop f.bcnt)
  | some k => .again { f.drop k with sync := true }

/-- A pass in SYNCED (42_framer.md R154 to R157): wait for the header, wait for the whole frame, then compare the CRCs. -/
def Framer.check (f : Framer) : Pass :=
  if f.bcnt < 3 then .exit f
  else
    let l := f.lengthField
    if f.bcnt < 6 + l.toNat then .exit f
    else if f.computedCrc l.toNat ≠ f.receivedCrc l.toNat then
      .again { f.drop 1 with errorCount := f.errorCount + 1, sync := false }
    else .exit { f with frameReady := true, flen := l }

/-- One pass of settle's loop (42_framer.md R152). -/
def Framer.pass (f : Framer) : Pass :=
  if f.halted || f.frameReady then .exit f
  else if f.sync then f.check
  else f.scan

/-- At most `fuel` passes of settle's loop. -/
def settleLoop : Nat → Framer → Framer
  | 0, f => f
  | fuel + 1, f =>
    match f.pass with
    | .exit g => g
    | .again g => settleLoop fuel g

/-- The quantity every repeated pass lowers: `2*bcnt + (1 - sync)` (42_framer.md R152). -/
def Framer.measure (f : Framer) : Nat := 2 * f.bcnt + (1 - f.sync.toNat)

/-- End of data (42_framer.md R158). -/
def Framer.endOfData (f : Framer) : Framer :=
  if f.eod && !f.frameReady && !f.halted then { f.drop f.bcnt with sync := false, ended := true } else f

/-- `settle(S)` (42_framer.md R152). The loop is given one pass more than its measure, so it always reaches its exit
(log entry 7; Laws/Settle.lean proves it). -/
def Framer.settle (f : Framer) : Framer := (settleLoop (f.measure + 1) f).endOfData

end Sys2Proof.Machine
end

