-- ==== Sys2Proof/Machine/Framer.lean ====
section
/-! DEFINITION. The framer's commands (42_framer.md R160 to R166). -/

namespace Sys2Proof.Machine

/-- A byte taken by the framer: appended, then settled (42_framer.md R161). -/
def Framer.push (f : Framer) (b : Byte) : Framer := (f.append b).settle

/-- End of data given to the framer: EOD set, then settled (42_framer.md R162). -/
def Framer.giveEod (f : Framer) : Framer := Framer.settle { f with eod := true }

/-- The host's verdict on the held frame before the settle that follows it (42_framer.md R163): FAIL counts an error,
the whole frame of `6 + L` bytes is consumed, the framer returns to NOSYNC, and OK_STOP halts it. -/
def Framer.consume (f : Framer) (v : Verdict) : Framer :=
  { f.drop (6 + f.flen.toNat) with
    errorCount := if v = .fail then f.errorCount + 1 else f.errorCount
    frameReady := false
    flen := 0
    sync := false
    halted := if v = .okStop then true else f.halted }

/-- The verdict, then the settle (42_framer.md R163). -/
def Framer.acknowledge (f : Framer) (v : Verdict) : Framer := (f.consume v).settle

/-- FRM_RESET (42_framer.md R160): accepted in every framer state. -/
def execFrmReset (s : State) : Host.Outcome State Fault Refusal := State.respond { s with frm := Framer.reset } 0

/-- FRM_PUSH b (42_framer.md R161; priority 60_exceptions.md R225). -/
def execFrmPush (b : Byte) (s : State) : Host.Outcome State Fault Refusal :=
  if s.frm.halted then s.raise .halted
  else if s.frm.eod then s.raise .ended
  else if s.frm.bcnt = s.cfg.bufCap then s.raise .full
  else State.respond { s with frm := s.frm.push b } 0

/-- FRM_EOD (42_framer.md R162). -/
def execFrmEod (s : State) : Host.Outcome State Fault Refusal :=
  if s.frm.halted then s.raise .halted
  else if s.frm.eod then s.raise .ended
  else State.respond { s with frm := s.frm.giveEod } 0

/-- FRM_ACK v (42_framer.md R163). -/
def execFrmAck (v : Verdict) (s : State) : Host.Outcome State Fault Refusal :=
  if s.frm.frameReady then State.respond { s with frm := s.frm.acknowledge v } 0
  else s.raise .noFrame

/-- FRM_STATUS (42_framer.md R164). -/
def execFrmStatus (s : State) : Host.Outcome State Fault Refusal := s.respond s.frm.statusWord

/-- FRM_ERRCNT (42_framer.md R165). -/
def execFrmErrcnt (s : State) : Host.Outcome State Fault Refusal := s.respond s.frm.errorCount

/-- FRM_RDPAY i (42_framer.md R166). -/
def execFrmRdpay (i : BitVec 10) (s : State) : Host.Outcome State Fault Refusal :=
  if s.frm.frameReady then
    if s.frm.flen.toNat ≤ i.toNat then s.raise .range
    else s.respond ((s.frm.payloadByte i.toNat).setWidth 64)
  else s.raise .noFrame

end Sys2Proof.Machine
end

