-- ==== Sys2Proof/Machine/Dispatch.lean ====
section
/-! DEFINITION. What each command does: one call of its meaning (the opcode map, 30_encoding.md R73). -/

namespace Sys2Proof.Machine

def exec (i : Instr) (s : State) : Host.Outcome State Fault Refusal :=
  match i with
  | .nop => Sys2Proof.Machine.execNop s
  | .reset => Sys2Proof.Machine.execReset s
  | .crcInit => Sys2Proof.Machine.execCrcInit s
  | .crcByte byte => Sys2Proof.Machine.execCrcByte byte s
  | .crcRd => Sys2Proof.Machine.execCrcRd s
  | .frmReset => Sys2Proof.Machine.execFrmReset s
  | .frmPush byte => Sys2Proof.Machine.execFrmPush byte s
  | .frmEod => Sys2Proof.Machine.execFrmEod s
  | .frmAck verd => Sys2Proof.Machine.execFrmAck verd s
  | .frmStatus => Sys2Proof.Machine.execFrmStatus s
  | .frmErrcnt => Sys2Proof.Machine.execFrmErrcnt s
  | .frmRdpay idx => Sys2Proof.Machine.execFrmRdpay idx s
  | .curClear => Sys2Proof.Machine.execCurClear s
  | .curAppend byte => Sys2Proof.Machine.execCurAppend byte s
  | .curAttach => Sys2Proof.Machine.execCurAttach s
  | .curRdu n => Sys2Proof.Machine.execCurRdu n s
  | .curRds n => Sys2Proof.Machine.execCurRds n s
  | .curSkip sn => Sys2Proof.Machine.execCurSkip sn s
  | .curStatus => Sys2Proof.Machine.execCurStatus s

end Sys2Proof.Machine
end

