-- ==== Sys2Proof/Machine/Step.lean ====
section
/-! DEFINITION. One step: `Step(S, w)` of 00_scope.md R10 on the next command word the host issues. -/

namespace Sys2Proof.Machine

/-- One step. With no word pending the engine waits and nothing changes (60_exceptions.md R232). A word is decoded before
anything else; an illegal one is answered ILLEGAL and changes no state (30_encoding.md R74). -/
def step (s : State) : Host.Outcome State Fault Refusal :=
  match s.takeCommand with
  | none => .next s
  | some (w, s') =>
    match decode w with
    | .ok i => exec i s'
    | .error _ => s'.raise .illegal

/-- The host issues one more word, ahead of the pending ones: the word the next step performs (log entry 1). -/
def State.withFetchWord (s : State) (nbits w : Nat) : State := { s with port := tableWord nbits w :: s.port }

end Sys2Proof.Machine
end

