-- ==== Sys2Proof/Safety.lean ====
section
/-! DEFINITION. The terms claims use: which words are illegal, which commands write what, sequences of commands, reset
values, CRC-correct frames, and the invariants that hold after every command (42_framer.md R159). -/

namespace Sys2Proof

/-! ### Kinds of command -/

/-- The bit count of a cursor read or skip. -/
def Instr.bitCount : Instr → Option Nat
  | .curRdu n => some n.toNat
  | .curRds n => some n.toNat
  | .curSkip n => some n.toNat
  | _ => none

/-- The commands whose rule returns a value (30_encoding.md R78). -/
def Instr.returnsData : Instr → Bool
  | .crcRd | .frmStatus | .frmErrcnt | .frmRdpay _ | .curRdu _ | .curRds _ | .curStatus => true
  | _ => false

/-- The commands that write `crc_reg` (10_state.md R20). -/
def Instr.writesCrc : Instr → Bool
  | .crcInit | .crcByte _ | .reset => true
  | _ => false

/-- The byte a CRC_BYTE feeds. -/
def Instr.crcOperand : Instr → Option Byte
  | .crcByte b => some b
  | _ => none

/-- The commands that run settle (42_framer.md R152). -/
def Instr.runsSettle : Instr → Bool
  | .frmPush _ | .frmEod | .frmAck _ => true
  | _ => false

/-- The commands that reset the framer (70_reset_and_hazards.md R251). -/
def Instr.resetsFramer : Instr → Bool
  | .frmReset | .reset => true
  | _ => false

/-- The framer's commands (30_encoding.md R81). -/
def Instr.ofFramer : Instr → Bool
  | .frmReset | .frmPush _ | .frmEod | .frmAck _ | .frmStatus | .frmErrcnt | .frmRdpay _ => true
  | _ => false

/-- The commands that write CBUF (10_state.md R20). -/
def Instr.writesCbuf : Instr → Bool
  | .curClear | .curAppend _ | .curAttach | .reset => true
  | _ => false

/-- The commands that write `cpos` (10_state.md R20). -/
def Instr.writesCpos : Instr → Bool
  | .curClear | .curAttach | .curRdu _ | .curRds _ | .curSkip _ | .reset => true
  | _ => false

/-- The commands that change no state (20_memory.md R60). -/
def Instr.readOnly : Instr → Bool
  | .frmStatus | .frmErrcnt | .frmRdpay _ | .crcRd | .curStatus | .nop => true
  | _ => false

end Sys2Proof

namespace Sys2Proof.Machine

/-! ### Words and sequences of commands -/

/-- The opcodes of each format (30_encoding.md R71, R73). -/
def opcodesZ : List Nat := [0x00, 0x01, 0x08, 0x0A, 0x10, 0x12, 0x14, 0x15, 0x20, 0x22, 0x26]
def opcodesB : List Nat := [0x09, 0x11, 0x21]
def opcodesV : List Nat := [0x13]
def opcodesI : List Nat := [0x16]
def opcodesW : List Nat := [0x23, 0x24]
def opcodesS : List Nat := [0x25]

/-- Every opcode of the map (R73). -/
def opcodesAll : List Nat := opcodesZ ++ opcodesB ++ opcodesV ++ opcodesI ++ opcodesW ++ opcodesS

/-- 30_encoding.md R74: the four ways a word is illegal, by the bits of the word. -/
abbrev IllegalWord (w : Word) : Prop :=
  let op := (w.extractLsb' 26 6).toNat
  op ∉ opcodesAll ∨
  (op ∈ opcodesZ ∧ w.extractLsb' 0 26 ≠ 0) ∨ (op ∈ opcodesB ∧ w.extractLsb' 8 18 ≠ 0) ∨
  (op ∈ opcodesV ∧ w.extractLsb' 2 24 ≠ 0) ∨ (op ∈ opcodesI ∧ w.extractLsb' 10 16 ≠ 0) ∨
  (op ∈ opcodesW ∧ w.extractLsb' 7 19 ≠ 0) ∨ (op ∈ opcodesS ∧ w.extractLsb' 14 12 ≠ 0) ∨
  (op ∈ opcodesV ∧ w.extractLsb' 0 2 = 3) ∨
  (op ∈ opcodesW ∧ 64 < (w.extractLsb' 0 7).toNat)

/-- Commands performed one after another, each on the state the one before left (20_memory.md R55). -/
def State.issue (s : State) : List Instr → Option State
  | [] => some s
  | i :: is =>
    match exec i s with
    | .next t => t.issue is
    | .fault _ => none
    | .refused _ => none

/-! ### Reset -/

/-- The table of 10_state.md R34, row by row. -/
abbrev HasResetValues (s : State) : Prop :=
  s.crcReg = 0x000000 ∧ s.frm.sync = false ∧ s.frm.frameReady = false ∧ s.frm.flen = 0 ∧ s.frm.halted = false ∧
  s.frm.eod = false ∧ s.frm.ended = false ∧ s.frm.errorCount = 0 ∧ s.frm.bcnt = 0 ∧ s.cur.clen = 0 ∧ s.cur.cpos = 0 ∧
  s.frameReadyOut = false ∧ s.inReadyOut = true

/-! ### Frames and invariants -/

/-- A whole frame with a correct CRC stands at the front of a byte sequence (42_framer.md R150). -/
abbrev FrameAtFront (bs : List Byte) : Prop :=
  let f : Framer := { Framer.reset with fbuf := bs }
  bs.head? = some preamble ∧ 3 ≤ bs.length ∧ 6 + f.lengthField.toNat ≤ bs.length ∧
  f.computedCrc f.lengthField.toNat = f.receivedCrc f.lengthField.toNat

/-- R159 item 1: what holds while a frame is held. -/
abbrev Framer.HeldFrame (f : Framer) : Prop :=
  f.frameReady = true →
    f.sync = true ∧ f.halted = false ∧ 6 + f.flen.toNat ≤ f.bcnt ∧ f.flen = f.lengthField ∧
    f.computedCrc f.flen.toNat = f.receivedCrc f.flen.toNat

/-- R159 item 2. -/
abbrev Framer.NoFrameNoLength (f : Framer) : Prop := f.frameReady = false → f.flen = 0

/-- R159 item 3: what holds while the framer waits for bytes. -/
abbrev Framer.Waiting (f : Framer) : Prop :=
  f.halted = false → f.frameReady = false →
    (f.sync = false → f.bcnt = 0) ∧
    (f.sync = true → f.fbuf.head? = some preamble ∧ (f.bcnt < 3 ∨ f.bcnt < 6 + f.lengthField.toNat))

/-- R159 item 4. -/
abbrev Framer.EndedEmpty (f : Framer) : Prop :=
  f.ended = true → f.eod = true ∧ f.bcnt = 0 ∧ f.sync = false ∧ f.frameReady = false ∧ f.halted = false

/-- R159 item 5. -/
abbrev Framer.HaltedNoFrame (f : Framer) : Prop := f.halted = true → f.frameReady = false

/-- 10_state.md R23: when sync = 1, FBUF[0] = 0xD3. -/
abbrev Framer.SyncedAtPreamble (f : Framer) : Prop := f.sync = true → f.fbuf.head? = some preamble

/-- 10_state.md R26 with 42_framer.md R158: end of data given, no frame held and not halted means it has been taken. -/
abbrev Framer.EndTaken (f : Framer) : Prop :=
  f.eod = true → f.frameReady = false → f.halted = false → f.ended = true

/-- The framer's invariants. -/
structure Framer.Inv (f : Framer) : Prop where
  held : f.HeldFrame
  noFrame : f.NoFrameNoLength
  waiting : f.Waiting
  ended : f.EndedEmpty
  halted : f.HaltedNoFrame
  synced : f.SyncedAtPreamble
  endTaken : f.EndTaken

/-- The engine's invariants: legal parameters (00_scope.md R6), buffers within capacity (10_state.md R27, R30),
`0 ≤ cpos ≤ 8*clen` (R20) and the framer's. -/
structure State.Inv (s : State) : Prop where
  legal : s.cfg.Legal
  memory : Memory.wf s
  cursor : s.cur.cpos.toNat ≤ 8 * s.cur.clen
  framer : s.frm.Inv

end Sys2Proof.Machine
end

