-- ==== Sys2Proof/Certificates/Slice0/Obligations.lean ====
section
/-! DEFINITION. The statements about the engine. Each docstring names the rule of spec/ it formalises. The fields `port` and
`resp` carry the host's words and the engine's answers; they are the model's own (log entries 1 and 2), and so is what a step
does with no word pending (log entry 6). -/

open Sys2Proof Sys2Proof.Machine

/-! ### Encoding and decoding -/

/-- 30_encoding.md R71 to R73: the word of every well-formed command decodes to that command, with every operand. -/
def Obligations.EncodedCommandDecodesToItself : Prop :=
  ∀ i : Instr, i.wf = true → decode (encode i) = .ok i

/-- 30_encoding.md R71 to R76: a word that decodes is the word of exactly the command it decodes to, and that command is
well formed: no word has two meanings and no bit of a legal word is ignored. -/
def Obligations.DecodedWordIsTheCommandsWord : Prop :=
  ∀ (w : Word) (i : Instr), decode w = .ok i → i.wf = true ∧ encode i = w

/-- 30_encoding.md R73 and R79: words the spec writes out decode to the commands it says. -/
def Obligations.WordsWrittenInTheSpecDecode : Prop :=
  decode 0x440000D3 = .ok (.frmPush 0xD3) ∧ decode 0x8C00000C = .ok (.curRdu 12) ∧
  decode 0x4C000002 = .ok (.frmAck .fail) ∧ decode 0x4C000001 = .ok (.frmAck .okStop) ∧
  decode 0x90000026 = .ok (.curRds 38) ∧ decode 0x940003E8 = .ok (.curSkip 1000) ∧
  decode 0x04000000 = .ok .reset ∧ decode 0x24000001 = .ok (.crcByte 1) ∧ decode 0x58000012 = .ok (.frmRdpay 18)

/-- 30_encoding.md R74: a word fails to decode exactly when it is illegal; an illegal word changes no state and is
answered (ILLEGAL, 0) whatever else holds, and the port goes on with the next word; 45 of the 64 opcodes are unassigned. -/
def Obligations.IllegalWordsChangeNothing : Prop :=
  (∀ w : Word, (∃ e, decode w = .error e) ↔ IllegalWord w) ∧
  (∀ (s : State) (w : Word) (rest : List Word), s.port = w :: rest → IllegalWord w →
    step s = .next { s with port := rest, resp := some ⟨.illegal, 0⟩ }) ∧
  ((List.range 64).filter (fun op => decide (op ∉ opcodesAll))).length = 45

/-! ### The step, the responses and their statuses -/

/-- 00_scope.md R10, 20_memory.md R55, 60_exceptions.md R232: a step takes the first pending word, decodes it and runs the
command on the rest of the state; with no word pending nothing changes (the model's reading, log entry 6). -/
def Obligations.StepRunsTheDecodedCommand : Prop :=
  (∀ (s : State) (w : Word) (rest : List Word) (i : Instr), s.port = w :: rest → decode w = .ok i →
    step s = exec i { s with port := rest }) ∧
  (∀ s : State, s.port = [] → step s = .next s)

/-- 30_encoding.md R78: every word at the port, legal or not, gets one response, its data 0 unless the status is OK and the
command's rule returns a value. -/
def Obligations.EveryWordGetsOneResponse : Prop :=
  ∀ (s : State) (w : Word) (rest : List Word), s.port = w :: rest →
    ∃ t r, step s = .next t ∧ t.port = rest ∧ t.resp = some r ∧
      (r.data ≠ 0 → r.status = .ok ∧ ∃ i, decode w = .ok i ∧ i.returnsData = true)

/-- 60_exceptions.md R222: a command whose status is not OK leaves every register and both buffers as before it. -/
def Obligations.FailedCommandChangesNoState : Prop :=
  ∀ (s t : State) (w : Word) (rest : List Word) (r : Response), s.port = w :: rest → step s = .next t →
    t.resp = some r → r.status ≠ .ok → t = { s with port := rest, resp := some r }

/-- 60_exceptions.md R221: the code of each status, the commands that raise it and its cause, and data 0 with each. -/
def Obligations.StatusesHaveTheirCauses : Prop :=
  (Status.code .ok = 0 ∧ Status.code .illegal = 1 ∧ Status.code .outOfBits = 2 ∧ Status.code .noFrame = 3 ∧
    Status.code .full = 4 ∧ Status.code .halted = 5 ∧ Status.code .ended = 6 ∧ Status.code .range = 7) ∧
  ∀ (s t : State) (w : Word) (rest : List Word) (r : Response), s.port = w :: rest → step s = .next t →
    t.resp = some r →
    (r.status ≠ .ok → r.data = 0) ∧
    (r.status = .illegal ↔ IllegalWord w) ∧
    (r.status = .outOfBits → ∃ i n, decode w = .ok i ∧ i.bitCount = some n ∧ 8 * s.cur.clen - s.cur.cpos.toNat < n) ∧
    (r.status = .noFrame → s.frm.frameReady = false ∧
      ((∃ v, decode w = .ok (.frmAck v)) ∨ (∃ i, decode w = .ok (.frmRdpay i)) ∨ decode w = .ok .curAttach)) ∧
    (r.status = .full →
      (∃ b, decode w = .ok (.frmPush b) ∧ s.frm.bcnt = s.cfg.bufCap) ∨
      (∃ b, decode w = .ok (.curAppend b) ∧ s.cur.clen = s.cfg.curCap)) ∧
    (r.status = .halted → s.frm.halted = true ∧
      ((∃ b, decode w = .ok (.frmPush b)) ∨ decode w = .ok .frmEod)) ∧
    (r.status = .ended → s.frm.eod = true ∧
      ((∃ b, decode w = .ok (.frmPush b)) ∨ decode w = .ok .frmEod)) ∧
    (r.status = .range → ∃ i : BitVec 10, decode w = .ok (.frmRdpay i) ∧ s.frm.flen.toNat ≤ i.toNat)

/-- 60_exceptions.md R225: when several causes hold, the first in the rule's order is the one reported. -/
def Obligations.FailuresAreReportedInPriorityOrder : Prop :=
  ∀ s : State,
    (∀ b, s.frm.halted = true → exec (.frmPush b) s = .next (s.answer .halted 0)) ∧
    (∀ b, s.frm.halted = false → s.frm.eod = true → exec (.frmPush b) s = .next (s.answer .ended 0)) ∧
    (∀ b, s.frm.halted = false → s.frm.eod = false → s.frm.bcnt = s.cfg.bufCap →
      exec (.frmPush b) s = .next (s.answer .full 0)) ∧
    (s.frm.halted = true → exec .frmEod s = .next (s.answer .halted 0)) ∧
    (s.frm.halted = false → s.frm.eod = true → exec .frmEod s = .next (s.answer .ended 0)) ∧
    (∀ i, s.frm.frameReady = false → exec (.frmRdpay i) s = .next (s.answer .noFrame 0)) ∧
    (∀ i : BitVec 10, s.frm.frameReady = true → s.frm.flen.toNat ≤ i.toNat →
      exec (.frmRdpay i) s = .next (s.answer .range 0)) ∧
    (∀ v, s.frm.frameReady = false → exec (.frmAck v) s = .next (s.answer .noFrame 0)) ∧
    (s.frm.frameReady = false → exec .curAttach s = .next (s.answer .noFrame 0)) ∧
    (∀ b, s.cur.clen = s.cfg.curCap → exec (.curAppend b) s = .next (s.answer .full 0)) ∧
    (∀ v, s.Inv → s.frm.halted = true → exec (.frmAck v) s = .next (s.answer .noFrame 0))

/-! ### Reset and the units -/

/-- 10_state.md R34: the reset value of every piece of state, after power-on and after RESET. -/
def Obligations.ResetGivesEveryResetValue : Prop :=
  HasResetValues State.reset ∧
  ∀ s : State, s.cfg.Legal → ∃ t, exec .reset s = .next t ∧ HasResetValues t

/-- 70_reset_and_hazards.md R251: what each reset command resets and what it leaves unchanged. -/
def Obligations.ResetCommandsResetTheirUnitsOnly : Prop :=
  ∀ s : State,
    exec .reset s = .next ({ s with crcReg := 0, frm := Framer.reset, cur := Cursor.reset }.answer .ok 0) ∧
    exec .crcInit s = .next ({ s with crcReg := 0 }.answer .ok 0) ∧
    exec .frmReset s = .next ({ s with frm := Framer.reset }.answer .ok 0) ∧
    exec .curClear s = .next ({ s with cur := Cursor.reset }.answer .ok 0) ∧
    (State.resetWith s.cfg).crcReg = 0 ∧ (State.resetWith s.cfg).frm = Framer.reset ∧
    (State.resetWith s.cfg).cur = Cursor.reset

/-- 43_control.md R201 and 70_reset_and_hazards.md R250: RESET leaves the engine as power-on reset does, and equals CRC_INIT,
FRM_RESET and CUR_CLEAR issued together. -/
def Obligations.ResetEqualsPowerOnAndTheUnitResets : Prop :=
  ∀ s : State,
    exec .reset s = .next ({ State.resetWith s.cfg with port := s.port }.answer .ok 0) ∧
    s.issue [.reset] = s.issue [.crcInit, .frmReset, .curClear] ∧
    s.issue [.reset] = s.issue [.reset, .reset]

/-- 43_control.md R200: NOP does nothing, in every state; its word is the all-zero word, and no other word of its opcode is
legal. -/
def Obligations.NopChangesNothing : Prop :=
  decode 0x00000000 = .ok .nop ∧ encode .nop = 0x00000000 ∧
  (∀ w : Word, w.extractLsb' 26 6 = 0 → w ≠ 0 → ∃ e, decode w = .error e) ∧
  ∀ s : State, exec .nop s = .next (s.answer .ok 0)

/-- 10_state.md R20, 20_memory.md R54 and R57: what each command may write. The parameters and the port never change;
`crc_reg`, the framer and the cursor change only through the commands the rule's table names. -/
def Obligations.EachCommandWritesOnlyItsState : Prop :=
  ∀ (i : Instr) (s t : State), exec i s = .next t →
    t.cfg = s.cfg ∧ t.port = s.port ∧
    (i.writesCrc = false → t.crcReg = s.crcReg) ∧
    (i.runsSettle = false → i.resetsFramer = false →
      t.frm.sync = s.frm.sync ∧ t.frm.frameReady = s.frm.frameReady ∧ t.frm.flen = s.frm.flen ∧
      t.frm.halted = s.frm.halted ∧ t.frm.eod = s.frm.eod ∧ t.frm.ended = s.frm.ended ∧
      t.frm.errorCount = s.frm.errorCount ∧ t.frm.bcnt = s.frm.bcnt ∧ ∀ k, t.frm.byte k = s.frm.byte k) ∧
    (i.resetsFramer = false → (∀ v, i ≠ .frmAck v) → t.frm.halted = s.frm.halted) ∧
    (i.resetsFramer = false → i ≠ .frmEod → t.frm.eod = s.frm.eod) ∧
    (i.writesCbuf = false → t.cur.clen = s.cur.clen ∧ ∀ k, t.cur.byte k = s.cur.byte k) ∧
    (i.writesCpos = false → t.cur.cpos = s.cur.cpos)

/-- 20_memory.md R60: the reading commands change no state and answer the same twice; RESET, FRM_RESET, CRC_INIT and
CUR_CLEAR are idempotent; a second FRM_EOD fails ENDED. -/
def Obligations.ReadsAndResetsAreIdempotent : Prop :=
  (∀ (i : Instr) (s t : State), i.readOnly = true → exec i s = .next t →
    (∃ r, t = { s with resp := some r }) ∧ exec i t = .next t) ∧
  (∀ (i : Instr) (s t : State), i = .reset ∨ i = .frmReset ∨ i = .crcInit ∨ i = .curClear → exec i s = .next t →
    exec i t = .next t) ∧
  (∀ s t : State, s.frm.halted = false → s.frm.eod = false → exec .frmEod s = .next t →
    exec .frmEod t = .next (t.answer .ended 0))

/-! ### Status words and output signals -/

/-- 10_state.md R35 (with R29): FRM_STATUS answers the word whose fields are the framer's, in every state, and changes
nothing. -/
def Obligations.FrmStatusWordHasItsFields : Prop :=
  ∀ s : State, ∃ d : Data, exec .frmStatus s = .next (s.answer .ok d) ∧
    d.extractLsb' 0 1 = BitVec.ofBool s.frm.sync ∧ d.extractLsb' 1 1 = BitVec.ofBool s.frm.frameReady ∧
    d.extractLsb' 2 1 = BitVec.ofBool s.frm.halted ∧ d.extractLsb' 3 1 = BitVec.ofBool s.frm.eod ∧
    d.extractLsb' 4 1 = BitVec.ofBool s.frm.ended ∧
    d.extractLsb' 5 1 = BitVec.ofBool (s.frm.frameReady && decide (2 ≤ s.frm.flen.toNat)) ∧
    d.extractLsb' 6 2 = 0 ∧
    d.extractLsb' 8 12 =
      (if s.frm.frameReady = true ∧ 2 ≤ s.frm.flen.toNat then s.frm.byte 3 ++ (s.frm.byte 4).extractLsb' 4 4 else 0) ∧
    d.extractLsb' 20 10 = s.frm.flen ∧ d.extractLsb' 30 2 = 0 ∧
    d.extractLsb' 32 16 = BitVec.ofNat 16 s.frm.bcnt ∧ d.extractLsb' 48 16 = 0 ∧
    (s.Inv → (d.extractLsb' 32 16).toNat = s.frm.bcnt)

/-- 10_state.md R36: CUR_STATUS answers the cursor's position and length, and changes nothing. -/
def Obligations.CurStatusWordHasItsFields : Prop :=
  ∀ s : State, ∃ d : Data, exec .curStatus s = .next (s.answer .ok d) ∧
    d.extractLsb' 0 16 = s.cur.cpos ∧ d.extractLsb' 16 16 = BitVec.ofNat 16 s.cur.clen ∧ d.extractLsb' 32 32 = 0 ∧
    (s.Inv → (d.extractLsb' 16 16).toNat = s.cur.clen)

/-- 10_state.md R37: CRC_RD answers `crc_reg` in bits 23:0, the other bits 0, and changes nothing. -/
def Obligations.CrcRdAnswersTheRegister : Prop :=
  ∀ s : State, ∃ d : Data, exec .crcRd s = .next (s.answer .ok d) ∧
    d.extractLsb' 0 24 = s.crcReg ∧ d.extractLsb' 24 40 = 0

/-- 42_framer.md R165: FRM_ERRCNT answers the error count and changes nothing. -/
def Obligations.FrmErrcntAnswersTheCount : Prop :=
  ∀ s : State, exec .frmErrcnt s = .next (s.answer .ok s.frm.errorCount)

/-- 10_state.md R32: the two output levels; in_ready_out = 1 means exactly that the next FRM_PUSH is accepted. -/
def Obligations.OutputSignalsShowTheState : Prop :=
  ∀ s : State, s.frameReadyOut = s.frm.frameReady ∧
    (s.inReadyOut = true ↔ s.frm.halted = false ∧ s.frm.eod = false ∧ s.frm.bcnt < s.cfg.bufCap) ∧
    (Memory.wf s → ∀ b, s.inReadyOut = true ↔ ∃ t, exec (.frmPush b) s = .next t ∧ t.resp = some ⟨.ok, 0⟩)

/-! ### CRC unit -/

/-- 41_crc24q.md R134: CRC_BYTE puts the byte at bits 23:16 of the working value and shifts eight times; the corner cases
from 0. -/
def Obligations.CrcByteShiftsEightTimes : Prop :=
  (∀ (b : Byte) (s : State),
    exec (.crcByte b) s = .next ({ s with crcReg :=
      ((fun c : BitVec 25 => if (c <<< 1).getLsbD 24 then (c <<< 1) ^^^ 0x1864CFB else c <<< 1)^[8]
        (s.crcReg.setWidth 25 ^^^ (b.setWidth 25 <<< 16))).setWidth 24 }.answer .ok 0)) ∧
  crcStep 0 0x00 = 0 ∧ crcStep 0 0x01 = 0x864CFB ∧ crcStep 0 0x80 = 0x3347A4 ∧ crcStep 0 0xFF = 0xDD8538

/-- 41_crc24q.md R132: the CRC of a sequence is the CRC of its first part with the bytes of the rest fed one at a time. -/
def Obligations.CrcIsStreaming : Prop :=
  (∀ A B : List Byte, crc24q (A ++ B) = B.foldl crcStep (crc24q A)) ∧
  (∀ B : List Byte, B.foldl crcStep 0 = crc24q B)

/-- 41_crc24q.md R137: a sequence followed by its three CRC bytes has CRC 0, and no other three bytes give 0, so the residue
gives the same verdict as the comparison. -/
def Obligations.StampedFrameHasResidueZero : Prop :=
  ∀ (M : List Byte) (x : BitVec 24),
    crc24q (M ++ [x.extractLsb' 16 8, x.extractLsb' 8 8, x.extractLsb' 0 8]) = 0 ↔ x = crc24q M

/-- 41_crc24q.md R130: crc24q is the remainder of `M(x) * x^24` divided by `P(x)` over GF(2), stream bit 0 being the
highest power of M. That nothing is XORed into the remainder at the end is PRESUMED: R130 marks it as general knowledge (log
entry 10). -/
def Obligations.CrcIsThePolynomialRemainder : Prop :=
  ∀ bs : List Byte, ∃ Q : Polynomial (ZMod 2),
    (∑ k ∈ Finset.range (8 * bs.length),
        if streamBit bs k then (Polynomial.X : Polynomial (ZMod 2)) ^ (8 * bs.length - 1 - k) else 0) * Polynomial.X ^ 24 =
      Q * (Polynomial.X ^ 24 + Polynomial.X ^ 23 + Polynomial.X ^ 18 + Polynomial.X ^ 17 + Polynomial.X ^ 14 +
        Polynomial.X ^ 11 + Polynomial.X ^ 10 + Polynomial.X ^ 7 + Polynomial.X ^ 6 + Polynomial.X ^ 5 +
        Polynomial.X ^ 4 + Polynomial.X ^ 3 + Polynomial.X + 1) +
      ∑ i ∈ Finset.range 24, if (crc24q bs).getLsbD i then (Polynomial.X : Polynomial (ZMod 2)) ^ i else 0

/-- 10_state.md R22: after CRC_INIT and any commands of which only CRC_BYTEs write `crc_reg`, the register holds crc24q of
the bytes fed; no framer command reads or writes the register. -/
def Obligations.CrcRegisterHoldsTheCrcOfTheBytesFed : Prop :=
  (∀ (s : State) (is : List Instr), (∀ i ∈ is, i.writesCrc = true → ∃ b, i = .crcByte b) →
    ∃ t, s.issue (.crcInit :: is) = some t ∧ t.crcReg = crc24q (is.filterMap Instr.crcOperand)) ∧
  (∀ (i : Instr) (s t : State) (c : BitVec 24), i.ofFramer = true → exec i s = .next t →
    t.crcReg = s.crcReg ∧ exec i { s with crcReg := c } = .next { t with crcReg := c })

/-! ### Bit cursor -/

/-- 40_bit_cursor.md R104 with R100: CUR_RDU n answers the next n stream bits, the first the most significant, and moves
cpos by n; nothing else changes. -/
def Obligations.CurRduReadsAnUnsignedField : Prop :=
  ∀ (s : State) (n : BitVec 7), n.toNat ≤ 64 → n.toNat ≤ 8 * s.cur.clen - s.cur.cpos.toNat →
    ∃ d : Data,
      exec (.curRdu n) s = .next
        ({ s with cur := { s.cur with cpos := BitVec.ofNat 16 (s.cur.cpos.toNat + n.toNat) } }.answer .ok d) ∧
      d.toNat = ∑ i ∈ Finset.range n.toNat,
        ((s.cur.byte ((s.cur.cpos.toNat + i) / 8)).getLsbD (7 - (s.cur.cpos.toNat + i) % 8)).toNat *
          2 ^ (n.toNat - 1 - i)

/-- 40_bit_cursor.md R105 with 00_scope.md R9: CUR_RDS n answers the same field read as two's complement and extended to 64
bits, a value from -2^(n-1) to 2^(n-1) - 1, and moves cpos by n; nothing else changes. -/
def Obligations.CurRdsReadsASignedField : Prop :=
  ∀ (s : State) (n : BitVec 7), n.toNat ≤ 64 → n.toNat ≤ 8 * s.cur.clen - s.cur.cpos.toNat →
    ∃ d : Data,
      exec (.curRds n) s = .next
        ({ s with cur := { s.cur with cpos := BitVec.ofNat 16 (s.cur.cpos.toNat + n.toNat) } }.answer .ok d) ∧
      d.toInt = (field s.cur.cbuf s.cur.cpos.toNat n.toNat : Int) -
        (if 0 < n.toNat ∧ streamBit s.cur.cbuf s.cur.cpos.toNat = true then 2 ^ n.toNat else 0) ∧
      (0 < n.toNat → -(2 ^ (n.toNat - 1) : Int) ≤ d.toInt ∧ d.toInt ≤ 2 ^ (n.toNat - 1) - 1)

/-- 40_bit_cursor.md R106: CUR_SKIP n moves cpos by n, for every n from 0 to 16383 that remains; nothing else changes. -/
def Obligations.CurSkipDiscardsBits : Prop :=
  ∀ (s : State) (n : BitVec 14), n.toNat ≤ 8 * s.cur.clen - s.cur.cpos.toNat →
    exec (.curSkip n) s = .next
      ({ s with cur := { s.cur with cpos := BitVec.ofNat 16 (s.cur.cpos.toNat + n.toNat) } }.answer .ok 0)

/-- 40_bit_cursor.md R108: a read or skip of more bits than remain is OUT_OF_BITS and changes nothing; the check is exact: a
command for exactly the remaining bits succeeds and leaves cpos = 8*clen. -/
def Obligations.OutOfBitsCheckIsExact : Prop :=
  ∀ (s : State) (i : Instr) (n : Nat), i.wf = true → i.bitCount = some n →
    (8 * s.cur.clen - s.cur.cpos.toNat < n → exec i s = .next (s.answer .outOfBits 0)) ∧
    (s.Inv → n = 8 * s.cur.clen - s.cur.cpos.toNat →
      ∃ t d, exec i s = .next t ∧ t.resp = some ⟨.ok, d⟩ ∧ t.cur.cpos.toNat = 8 * t.cur.clen)

/-- 40_bit_cursor.md R104, corner cases: two reads of m and n bits give the same bits as one read of m + n bits, and leave
the cursor where it does. -/
def Obligations.TwoReadsGiveTheBitsOfOne : Prop :=
  ∀ (s : State) (m n k : BitVec 7), s.Inv → m.toNat + n.toNat = k.toNat → k.toNat ≤ 64 →
    k.toNat ≤ 8 * s.cur.clen - s.cur.cpos.toNat →
    ∃ (t u v : State) (a b c : Data),
      exec (.curRdu m) s = .next t ∧ exec (.curRdu n) t = .next u ∧ exec (.curRdu k) s = .next v ∧
      t.resp = some ⟨.ok, a⟩ ∧ u.resp = some ⟨.ok, b⟩ ∧ v.resp = some ⟨.ok, c⟩ ∧
      c.toNat = a.toNat * 2 ^ n.toNat + b.toNat ∧ u.cur = v.cur

/-- 20_memory.md R52: at a byte-aligned cpos = 8*j, reading 8 bits answers CBUF[j] unchanged, and reading 16 bits answers
`CBUF[j] ++ CBUF[j+1]`. -/
def Obligations.AlignedReadsAnswerWholeBytes : Prop :=
  ∀ (s : State) (j : Nat), s.cur.cpos.toNat = 8 * j →
    (j < s.cur.clen → ∃ t, exec (.curRdu 8) s = .next t ∧ t.resp = some ⟨.ok, (s.cur.byte j).setWidth 64⟩) ∧
    (j + 1 < s.cur.clen → ∃ t, exec (.curRdu 16) s = .next t ∧
      t.resp = some ⟨.ok, (s.cur.byte j ++ s.cur.byte (j + 1)).setWidth 64⟩)

/-- 40_bit_cursor.md R109: no read sees a byte at or beyond clen: whatever bytes follow the buffer, a read or skip that
succeeds answers the same and moves cpos the same. -/
def Obligations.ReadsStayInsideCbuf : Prop :=
  ∀ (s t : State) (i : Instr) (n : Nat) (d : Data) (ext : List Byte), i.bitCount = some n → exec i s = .next t →
    t.resp = some ⟨.ok, d⟩ →
    exec i { s with cur := { s.cur with cbuf := s.cur.cbuf ++ ext } } =
      .next { t with cur := { t.cur with cbuf := t.cur.cbuf ++ ext } }

/-- 40_bit_cursor.md R102: CUR_APPEND stores one byte at CBUF[clen] and adds 1 to clen; every byte before it, cpos and the
rest of the state are unchanged. -/
def Obligations.CurAppendStoresOneByte : Prop :=
  ∀ (s : State) (b : Byte), s.cur.clen ≠ s.cfg.curCap →
    ∃ c : Cursor, exec (.curAppend b) s = .next ({ s with cur := c }.answer .ok 0) ∧
      c.clen = s.cur.clen + 1 ∧ c.cpos = s.cur.cpos ∧ c.byte s.cur.clen = b ∧
      ∀ k, k < s.cur.clen → c.byte k = s.cur.byte k

/-- 40_bit_cursor.md R103: CUR_ATTACH copies the held frame's payload: clen becomes flen, cpos 0, CBUF[j] becomes
FBUF[3+j]; the framer and the rest of the state are unchanged. -/
def Obligations.CurAttachCopiesThePayload : Prop :=
  ∀ s : State, s.frm.frameReady = true →
    ∃ c : Cursor, exec .curAttach s = .next ({ s with cur := c }.answer .ok 0) ∧
      c.clen = s.frm.flen.toNat ∧ c.cpos = 0 ∧ ∀ j, j < s.frm.flen.toNat → c.byte j = s.frm.byte (3 + j)

/-! ### Framer: the state machine -/

/-- 42_framer.md R153: in NOSYNC, every byte before the first 0xD3 is discarded and the framer goes to SYNCED; with no 0xD3
every byte is discarded and the framer waits in NOSYNC; neither is an error. -/
def Obligations.NosyncScanFindsTheFirstPreamble : Prop :=
  ∀ f : Framer, f.halted = false → f.frameReady = false → f.sync = false →
    (∀ pre rest : List Byte, f.fbuf = pre ++ 0xD3 :: rest → (0xD3 : Byte) ∉ pre →
      f.settle = Framer.settle { f with fbuf := 0xD3 :: rest, sync := true }) ∧
    (f.eod = false → (0xD3 : Byte) ∉ f.fbuf → f.settle = { f with fbuf := [] })

/-- 42_framer.md R154 and R155: in SYNCED with fewer than 3 bytes, or fewer than 6 + L, the framer waits and discards
nothing. -/
def Obligations.SyncedWaitsForTheWholeFrame : Prop :=
  ∀ f : Framer, f.halted = false → f.frameReady = false → f.eod = false → f.sync = true →
    (f.bcnt < 3 → f.settle = f) ∧
    (f.bcnt < 6 + ((f.byte 1).extractLsb' 0 2 ++ f.byte 2).toNat → f.settle = f)

/-- 42_framer.md R156: on a CRC mismatch 1 is added to error_count, exactly one byte is dropped, and the scan goes on in
NOSYNC from the byte after it. -/
def Obligations.CrcMismatchDropsOneByte : Prop :=
  ∀ (f : Framer) (L : Nat), f.halted = false → f.frameReady = false → f.sync = true → 3 ≤ f.bcnt →
    L = ((f.byte 1).extractLsb' 0 2 ++ f.byte 2).toNat → 6 + L ≤ f.bcnt →
    crc24q (f.fbuf.take (3 + L)) ≠ f.byte (3 + L) ++ f.byte (4 + L) ++ f.byte (5 + L) →
    f.settle = Framer.settle { f with errorCount := f.errorCount + 1, fbuf := f.fbuf.drop 1, sync := false }

/-- 42_framer.md R157: on a match the frame is held, with its length, and nothing else changes; bytes behind it are not
examined while it is held. -/
def Obligations.CrcMatchHoldsTheFrame : Prop :=
  ∀ (f : Framer) (L : Nat), f.halted = false → f.frameReady = false → f.sync = true → 3 ≤ f.bcnt →
    L = ((f.byte 1).extractLsb' 0 2 ++ f.byte 2).toNat → 6 + L ≤ f.bcnt →
    crc24q (f.fbuf.take (3 + L)) = f.byte (3 + L) ++ f.byte (4 + L) ++ f.byte (5 + L) →
    f.settle = { f with frameReady := true, flen := BitVec.ofNat 10 L } ∧
    ∀ bs : List Byte, Framer.settle { f.settle with fbuf := f.fbuf ++ bs } = { f.settle with fbuf := f.fbuf ++ bs }

/-- 42_framer.md R158: a settle after end of data is the settle without it, then, if no frame is held and the framer is not
halted, the bytes left are discarded, NOSYNC, END; the discarded bytes are not counted. -/
def Obligations.EndOfDataDiscardsThePartialFrame : Prop :=
  ∀ f : Framer,
    let g := Framer.settle { f with eod := false }
    Framer.settle { f with eod := true } =
      if g.frameReady = true ∨ g.halted = true then { g with eod := true }
      else { g with eod := true, fbuf := [], sync := false, ended := true }

/-- 42_framer.md R152: one settle counts at most bcnt CRC mismatches, and leaves nothing to do: settling again changes
nothing. -/
def Obligations.SettleEndsAndIsIdempotent : Prop :=
  ∀ f : Framer, (∃ k, k ≤ f.bcnt ∧ f.settle.errorCount = f.errorCount + BitVec.ofNat 64 k) ∧
    f.settle.settle = f.settle

/-! ### Framer: the commands -/

/-- 42_framer.md R161: where the framer is neither halted nor at end of data and FBUF has room, FRM_PUSH appends the byte and
settles; with a frame held the byte only waits behind it. -/
def Obligations.FrmPushAppendsAndSettles : Prop :=
  ∀ (b : Byte) (s : State), s.frm.halted = false → s.frm.eod = false → s.frm.bcnt ≠ s.cfg.bufCap →
    exec (.frmPush b) s =
      .next ({ s with frm := Framer.settle { s.frm with fbuf := s.frm.fbuf ++ [b] } }.answer .ok 0) ∧
    (s.frm.frameReady = true →
      exec (.frmPush b) s = .next ({ s with frm := { s.frm with fbuf := s.frm.fbuf ++ [b] } }.answer .ok 0))

/-- 42_framer.md R162: FRM_EOD with no frame held sets EOD and END, empties FBUF and returns to NOSYNC without counting an
error; with a frame held it sets EOD alone. -/
def Obligations.FrmEodEndsTheStream : Prop :=
  ∀ s : State, s.Inv → s.frm.halted = false → s.frm.eod = false →
    (s.frm.frameReady = false →
      exec .frmEod s =
        .next ({ s with frm := { s.frm with eod := true, ended := true, sync := false, fbuf := [] } }.answer .ok 0)) ∧
    (s.frm.frameReady = true → exec .frmEod s = .next ({ s with frm := { s.frm with eod := true } }.answer .ok 0))

/-- 42_framer.md R163: FRM_ACK consumes exactly the frame's 6 + L bytes, counts 1 for FAIL and nothing otherwise, halts for
OK_STOP with the bytes after the frame unexamined, and settles the rest for OK and FAIL. -/
def Obligations.FrmAckConsumesTheFrame : Prop :=
  ∀ s : State, s.frm.frameReady = true →
    let f : Framer :=
      { s.frm with fbuf := s.frm.fbuf.drop (6 + s.frm.flen.toNat), frameReady := false, flen := 0, sync := false }
    exec (.frmAck .ok) s = .next ({ s with frm := f.settle }.answer .ok 0) ∧
    exec (.frmAck .fail) s =
      .next ({ s with frm := Framer.settle { f with errorCount := s.frm.errorCount + 1 } }.answer .ok 0) ∧
    exec (.frmAck .okStop) s = .next ({ s with frm := { f with halted := true } }.answer .ok 0)

/-- 42_framer.md R166: FRM_RDPAY i answers payload byte i of the held frame, FBUF[3+i], and changes nothing. -/
def Obligations.FrmRdpayAnswersThePayloadByte : Prop :=
  ∀ (s : State) (i : BitVec 10), s.frm.frameReady = true → i.toNat < s.frm.flen.toNat →
    exec (.frmRdpay i) s = .next (s.answer .ok ((s.frm.byte (3 + i.toNat)).setWidth 64))

/-- 10_state.md R27: the framer removes bytes only from the front: after a command that settles, FBUF is the end of what it
was (with the byte pushed), every byte kept reading as before at its new index. -/
def Obligations.FbufLosesOnlyItsFront : Prop :=
  ∀ (i : Instr) (s t : State), i.runsSettle = true → exec i s = .next t → t.resp = some ⟨.ok, 0⟩ →
    let before := match i with
      | .frmPush b => s.frm.fbuf ++ [b]
      | _ => s.frm.fbuf
    t.frm.bcnt ≤ before.length ∧
    ∀ k, k < t.frm.bcnt → t.frm.byte k = byteAt before (before.length - t.frm.bcnt + k)

/-- 10_state.md R24 and 42_framer.md R157: a held frame stays held, byte for byte, until FRM_ACK, FRM_RESET or RESET. -/
def Obligations.HeldFrameStaysUntilAcknowledged : Prop :=
  ∀ (i : Instr) (s t : State), s.Inv → s.frm.frameReady = true → exec i s = .next t →
    i.resetsFramer = false → (∀ v, i ≠ .frmAck v) →
    t.frm.frameReady = true ∧ t.frm.flen = s.frm.flen ∧ t.frm.sync = s.frm.sync ∧
    t.frm.errorCount = s.frm.errorCount ∧ ∀ k, k < 6 + s.frm.flen.toNat → t.frm.byte k = s.frm.byte k

/-- 10_state.md R25: while halted the framer accepts no byte and runs no settle step; only FRM_RESET or RESET clears it, and
only the verdict OK_STOP sets it. -/
def Obligations.HaltedFramerIsFrozen : Prop :=
  ∀ (i : Instr) (s t : State), s.Inv → exec i s = .next t →
    (s.frm.halted = true → i.resetsFramer = false → t.frm = s.frm) ∧
    (s.frm.halted = true → i.resetsFramer = true → t.frm.halted = false) ∧
    (s.frm.halted = false → t.frm.halted = true → i = .frmAck .okStop) ∧
    (s.frm.frameReady = true → i = .frmAck .okStop → t.frm.halted = true)

/-- 70_reset_and_hazards.md R257: while no frame is held and the framer is not halted, bcnt < 6 + L ≤ 1029 ≤ BUF_CAP in
SYNCED and bcnt = 0 in NOSYNC, so FRM_PUSH cannot fail FULL; FULL needs a held frame. -/
def Obligations.PushIsNeverFullWithoutAFrame : Prop :=
  ∀ (s : State) (b : Byte), s.Inv →
    (s.frm.halted = false → s.frm.frameReady = false →
      (s.frm.sync = false → s.frm.bcnt = 0) ∧ (s.frm.sync = true → s.frm.bcnt < 6 + s.frm.lengthField.toNat) ∧
      6 + s.frm.lengthField.toNat ≤ 1029 ∧ 1029 ≤ s.cfg.bufCap) ∧
    (∀ t d, exec (.frmPush b) s = .next t → t.resp = some ⟨.full, d⟩ → s.frm.frameReady = true)

/-! ### The whole machine -/

/-- 42_framer.md R159 (with 10_state.md R20, R23, R26, R27, R30): every step keeps the invariants. -/
def Obligations.EveryStepKeepsTheInvariants : Prop :=
  ∀ s t : State, s.Inv → step s = .next t → t.Inv

/-- 42_framer.md R159 at reset, for every legal pair of parameters. -/
def Obligations.InvariantsHoldAtReset : Prop :=
  State.reset.Inv ∧ ∀ cfg : Config, cfg.Legal → (State.resetWith cfg).Inv

/-- 42_framer.md R168: processing at each push equals processing on demand: bytes pushed one at a time leave the framer as
one settle over all of them does. -/
def Obligations.PushingOneByOneEqualsSettlingOnce : Prop :=
  ∀ (f : Framer) (bs : List Byte), f.eod = false → f.settle = f →
    bs.foldl Framer.push f = Framer.settle { f with fbuf := f.fbuf ++ bs }

/-- 42_framer.md R168, for the verdicts OK and FAIL before end of data: it makes no difference whether a byte is pushed
before or after the FRM_ACK of the held frame. Left out are OK_STOP, after which a push fails HALTED, and end of data, after
which every push fails ENDED. -/
def Obligations.PushCommutesWithAcknowledge : Prop :=
  ∀ (s : State) (b : Byte) (v : Verdict), s.Inv → s.frm.frameReady = true → s.frm.eod = false →
    s.frm.bcnt < s.cfg.bufCap → v ≠ .okStop →
    ∃ t, s.issue [.frmPush b, .frmAck v] = some t ∧ s.issue [.frmAck v, .frmPush b] = some t

/-- 42_framer.md R169 item 1: a byte sequence holding no frame with a correct CRC, pushed and followed by FRM_EOD, ends with
END = 1, SYNC = 0 and FBUF empty, and no frame is ever held. The item's value of error_count is not part of this statement. -/
def Obligations.StreamWithoutFramesHoldsNone : Prop :=
  ∀ (cfg : Config) (bs : List Byte), cfg.Legal → (∀ k, ¬ FrameAtFront (bs.drop k)) →
    (∀ n, ∃ u, (State.resetWith cfg).issue ((bs.take n).map Instr.frmPush) = some u ∧ u.frm.frameReady = false) ∧
    ∃ t, (State.resetWith cfg).issue (bs.map Instr.frmPush ++ [.frmEod]) = some t ∧ t.resp = some ⟨.ok, 0⟩ ∧
      t.frm.ended = true ∧ t.frm.sync = false ∧ t.frm.frameReady = false ∧ t.frm.bcnt = 0
end

