-- ==== Sys2Proof/Laws/State.lean ====
section
/-! SUPPORT. One lemma per field per update of the state, so that no later proof unfolds a record update; and what the
port operations do. -/

namespace Sys2Proof.Machine

@[simp] theorem State.answer_cfg (s : State) (st : Status) (d : Data) : (s.answer st d).cfg = s.cfg := rfl
@[simp] theorem State.answer_crcReg (s : State) (st : Status) (d : Data) : (s.answer st d).crcReg = s.crcReg := rfl
@[simp] theorem State.answer_frm (s : State) (st : Status) (d : Data) : (s.answer st d).frm = s.frm := rfl
@[simp] theorem State.answer_cur (s : State) (st : Status) (d : Data) : (s.answer st d).cur = s.cur := rfl
@[simp] theorem State.answer_port (s : State) (st : Status) (d : Data) : (s.answer st d).port = s.port := rfl
@[simp] theorem State.answer_resp (s : State) (st : Status) (d : Data) : (s.answer st d).resp = some ⟨st, d⟩ := rfl

@[simp] theorem State.withFetchWord_cfg (s : State) (k w : Nat) : (s.withFetchWord k w).cfg = s.cfg := rfl
@[simp] theorem State.withFetchWord_crcReg (s : State) (k w : Nat) : (s.withFetchWord k w).crcReg = s.crcReg := rfl
@[simp] theorem State.withFetchWord_frm (s : State) (k w : Nat) : (s.withFetchWord k w).frm = s.frm := rfl
@[simp] theorem State.withFetchWord_cur (s : State) (k w : Nat) : (s.withFetchWord k w).cur = s.cur := rfl
@[simp] theorem State.withFetchWord_port (s : State) (k w : Nat) :
    (s.withFetchWord k w).port = tableWord k w :: s.port := rfl
@[simp] theorem State.withFetchWord_resp (s : State) (k w : Nat) : (s.withFetchWord k w).resp = s.resp := rfl

@[simp] theorem Framer.append_sync (f : Framer) (b : Byte) : (f.append b).sync = f.sync := rfl
@[simp] theorem Framer.append_frameReady (f : Framer) (b : Byte) : (f.append b).frameReady = f.frameReady := rfl
@[simp] theorem Framer.append_flen (f : Framer) (b : Byte) : (f.append b).flen = f.flen := rfl
@[simp] theorem Framer.append_halted (f : Framer) (b : Byte) : (f.append b).halted = f.halted := rfl
@[simp] theorem Framer.append_eod (f : Framer) (b : Byte) : (f.append b).eod = f.eod := rfl
@[simp] theorem Framer.append_ended (f : Framer) (b : Byte) : (f.append b).ended = f.ended := rfl
@[simp] theorem Framer.append_errorCount (f : Framer) (b : Byte) : (f.append b).errorCount = f.errorCount := rfl
@[simp] theorem Framer.append_fbuf (f : Framer) (b : Byte) : (f.append b).fbuf = f.fbuf ++ [b] := rfl

@[simp] theorem Framer.drop_sync (f : Framer) (k : Nat) : (f.drop k).sync = f.sync := rfl
@[simp] theorem Framer.drop_frameReady (f : Framer) (k : Nat) : (f.drop k).frameReady = f.frameReady := rfl
@[simp] theorem Framer.drop_flen (f : Framer) (k : Nat) : (f.drop k).flen = f.flen := rfl
@[simp] theorem Framer.drop_halted (f : Framer) (k : Nat) : (f.drop k).halted = f.halted := rfl
@[simp] theorem Framer.drop_eod (f : Framer) (k : Nat) : (f.drop k).eod = f.eod := rfl
@[simp] theorem Framer.drop_ended (f : Framer) (k : Nat) : (f.drop k).ended = f.ended := rfl
@[simp] theorem Framer.drop_errorCount (f : Framer) (k : Nat) : (f.drop k).errorCount = f.errorCount := rfl
@[simp] theorem Framer.drop_fbuf (f : Framer) (k : Nat) : (f.drop k).fbuf = f.fbuf.drop k := rfl

@[simp] theorem Framer.consume_sync (f : Framer) (v : Verdict) : (f.consume v).sync = false := rfl
@[simp] theorem Framer.consume_frameReady (f : Framer) (v : Verdict) : (f.consume v).frameReady = false := rfl
@[simp] theorem Framer.consume_flen (f : Framer) (v : Verdict) : (f.consume v).flen = 0 := rfl
@[simp] theorem Framer.consume_halted (f : Framer) (v : Verdict) :
    (f.consume v).halted = if v = .okStop then true else f.halted := rfl
@[simp] theorem Framer.consume_eod (f : Framer) (v : Verdict) : (f.consume v).eod = f.eod := rfl
@[simp] theorem Framer.consume_ended (f : Framer) (v : Verdict) : (f.consume v).ended = f.ended := rfl
@[simp] theorem Framer.consume_errorCount (f : Framer) (v : Verdict) :
    (f.consume v).errorCount = if v = .fail then f.errorCount + 1 else f.errorCount := rfl
@[simp] theorem Framer.consume_fbuf (f : Framer) (v : Verdict) :
    (f.consume v).fbuf = f.fbuf.drop (6 + f.flen.toNat) := rfl

@[simp] theorem Cursor.append_cbuf (c : Cursor) (b : Byte) : (c.append b).cbuf = c.cbuf ++ [b] := rfl
@[simp] theorem Cursor.append_cpos (c : Cursor) (b : Byte) : (c.append b).cpos = c.cpos := rfl
@[simp] theorem Cursor.advance_cbuf (c : Cursor) (n : Nat) : (c.advance n).cbuf = c.cbuf := rfl
@[simp] theorem Cursor.advance_cpos (c : Cursor) (n : Nat) : (c.advance n).cpos = c.cpos + BitVec.ofNat 16 n := rfl

@[simp] theorem Framer.append_bcnt (f : Framer) (b : Byte) : (f.append b).bcnt = f.bcnt + 1 := List.length_append
@[simp] theorem Framer.drop_bcnt (f : Framer) (k : Nat) : (f.drop k).bcnt = f.bcnt - k := List.length_drop
@[simp] theorem Cursor.append_clen (c : Cursor) (b : Byte) : (c.append b).clen = c.clen + 1 := List.length_append
@[simp] theorem Cursor.advance_clen (c : Cursor) (n : Nat) : (c.advance n).clen = c.clen := rfl

/-- Performing a command ends with the answer (OK, data). -/
theorem State.respond_eq (s : State) (d : Data) : s.respond d = .next (s.answer .ok d) := rfl

/-- Raising a status ends with the answer (status, 0) and nothing else changed. -/
theorem State.raise_eq (s : State) (st : Status) : s.raise st = .next (s.answer st 0) := rfl

/-- The port gives its first word and keeps the rest. -/
theorem State.takeCommand_cons {s : State} {w : Word} {rest : List Word} (h : s.port = w :: rest) :
    s.takeCommand = some (w, { s with port := rest }) := by
  simp [State.takeCommand, h]

/-- An empty port gives no command. -/
theorem State.takeCommand_nil {s : State} (h : s.port = []) : s.takeCommand = none := by
  simp [State.takeCommand, h]

end Sys2Proof.Machine
end

