-- ==== Sys2Proof/Laws/Buffers.lean ====
section
/-! SUPPORT. Reads of the byte buffers after each write, and the bounds of the cursor's fields. -/

namespace Sys2Proof.Machine

/-- A byte inside the buffer is the list's element. -/
theorem byteAt_of_lt {buf : List Byte} {i : Nat} (h : i < buf.length) : byteAt buf i = buf[i] := by
  simp [byteAt, h]

/-- Bytes below the count do not see what is appended. -/
theorem byteAt_append_left {buf : List Byte} {i : Nat} (ext : List Byte) (h : i < buf.length) :
    byteAt (buf ++ ext) i = byteAt buf i := by
  simp [byteAt, List.getElem?_append_left h]

/-- The byte at the old count is the byte appended. -/
theorem byteAt_append_new (buf : List Byte) (b : Byte) : byteAt (buf ++ [b]) buf.length = b := by
  simp [byteAt]

/-- Dropping k bytes moves every later byte down by k. -/
theorem byteAt_drop {buf : List Byte} {k i : Nat} (h : k + i < buf.length) :
    byteAt (buf.drop k) i = byteAt buf (k + i) := by
  simp [byteAt, h]

/-- Stream bits below the count do not see what is appended. -/
theorem streamBit_append_left {buf : List Byte} {k : Nat} (ext : List Byte) (h : k < 8 * buf.length) :
    streamBit (buf ++ ext) k = streamBit buf k := by
  simp only [streamBit]
  rw [byteAt_append_left ext (by omega)]

/-- A field of n bits is an n-bit number. -/
theorem field_lt (buf : List Byte) (p n : Nat) : field buf p n < 2 ^ n := by
  induction n with
  | zero => simp [field]
  | succ n ih =>
    have hb := Bool.toNat_lt (streamBit buf (p + n))
    simp only [field, Nat.pow_succ]
    omega

/-- The payload has flen bytes. -/
@[simp] theorem Framer.length_payload (f : Framer) : f.payload.length = f.flen.toNat := by
  simp [Framer.payload]

/-- Payload byte j is FBUF[3 + j]. -/
theorem Framer.byteAt_payload {f : Framer} {j : Nat} (h : j < f.flen.toNat) :
    byteAt f.payload j = f.payloadByte j := by
  simp [byteAt, Framer.payload, h]

/-- Advancing within the buffer does not wrap, since 8 * clen is below 2^16. -/
theorem Cursor.advance_toNat {c : Cursor} {n : Nat} (hc : c.clen ≤ 8191) (hp : c.cpos.toNat ≤ 8 * c.clen)
    (h : n ≤ c.remaining) : (c.advance n).cpos.toNat = c.cpos.toNat + n := by
  unfold Cursor.remaining at h
  have h2 : c.cpos.toNat + n < 65536 := by omega
  simpa using h2

end Sys2Proof.Machine
end

