-- ==== Sys2Proof/Laws/Crc.lean ====
section
/-! SUPPORT. The CRC's working value never carries its 25th bit from one shift to the next. -/

namespace Sys2Proof.Machine

/-- After a shift bit 24 is clear: the polynomial has its x^24 term, so the reduction clears it (41_crc24q.md R130). -/
theorem crcShift_bit24 (c : BitVec 25) : (crcShift c).getLsbD 24 = false := by
  simp only [crcShift]
  split
  · rename_i h
    rw [BitVec.getLsbD_xor, h]
    decide
  · rename_i h
    simpa using h

/-- A value with bit 24 clear is its low 24 bits. -/
theorem setWidth_of_bit24 {c : BitVec 25} (h : c.getLsbD 24 = false) : (c.setWidth 24).setWidth 25 = c := by
  apply BitVec.eq_of_getLsbD_eq
  intro i hi
  simp only [BitVec.getLsbD_setWidth, hi, decide_true, Bool.true_and]
  by_cases h24 : i < 24
  · simp [h24]
  · obtain rfl : i = 24 := by omega
    rw [h]
    simp

/-- After a byte bit 24 is clear, whatever the working value was before it. -/
theorem crcFeed_bit24 (c : BitVec 25) (b : Byte) : (crcFeed c b).getLsbD 24 = false := by
  simp only [crcFeed, crcShifts]
  exact crcShift_bit24 _

end Sys2Proof.Machine
end

