-- ==== Sys2Proof/Laws/Cursor.lean ====
section
/-! SUPPORT. Everything a cursor read or skip can do, said once. -/

namespace Sys2Proof.Machine

/-- A read or skip either raises OUT_OF_BITS and changes nothing, or moves cpos and answers its result
(40_bit_cursor.md R100, R108). -/
theorem State.consumeBits_cases (s : State) (n : Nat) (result : Cursor → Data) :
    (s.cur.remaining < n ∧ s.consumeBits n result = .next (s.answer .outOfBits 0)) ∨
    (n ≤ s.cur.remaining ∧
      s.consumeBits n result = .next ({ s with cur := s.cur.advance n }.answer .ok (result s.cur))) := by
  unfold State.consumeBits
  split
  · exact .inl ⟨‹_›, rfl⟩
  · exact .inr ⟨by omega, rfl⟩

/-- A stream bit at position p is the first bit of every field that starts there. -/
theorem field_one (buf : List Byte) (p : Nat) : field buf p 1 = (streamBit buf p).toNat := by
  simp [field]

/-- The fields of a buffer do not see what is appended to it, as long as they end inside it (40_bit_cursor.md R109). -/
theorem field_append_left {buf : List Byte} (ext : List Byte) {p n : Nat} (h : p + n ≤ 8 * buf.length) :
    field (buf ++ ext) p n = field buf p n := by
  induction n with
  | zero => rfl
  | succ n ih => rw [field, field, ih (by omega), streamBit_append_left ext (by omega)]

/-- Zero-extension loses nothing up to 64 bits. -/
theorem zext64_toNat {v n : Nat} (hv : v < 2 ^ n) (hn : n ≤ 64) : (zext64 v).toNat = v := by
  have : v < 2 ^ 64 := hv.trans_le (Nat.pow_le_pow_right (by omega) hn)
  simpa [zext64] using this

end Sys2Proof.Machine
end

