-- ==== Sys2Proof/Laws/Decode.lean ====
section
/-! SUPPORT. The verdict's two-bit code and its decoding undo each other. -/

namespace Sys2Proof

/-- Every verdict's code decodes to it (30_encoding.md R72). -/
@[simp] theorem decodeVerdict_code (v : Verdict) : decodeVerdict v.code = some v := by
  cases v <;> rfl

/-- A code that decodes is the code of the verdict it gives. -/
theorem code_of_decodeVerdict {c : BitVec 2} {v : Verdict} (h : decodeVerdict c = some v) : v.code = c := by
  revert c v
  decide

/-- Only the code 3 has no verdict (30_encoding.md R74 item 3). -/
theorem decodeVerdict_eq_none {c : BitVec 2} : decodeVerdict c = none ↔ c = 3 := by
  revert c
  decide

end Sys2Proof
end

