-- ==== Sys2Proof/Laws/Settle.lean ====
section
/-! SUPPORT. What a pass of settle can do, said once; that the loop always reaches its exit; settle's own equation,
free of the fuel; and what settle leaves as it was. -/

namespace Sys2Proof.Machine

/-- A pass that finds nothing to do leaves the loop with the framer as it is. -/
theorem Framer.pass_idle {f : Framer} (h : f.halted = true ∨ f.frameReady = true) : f.pass = .exit f := by
  rcases h with h | h <;> simp [Framer.pass, h]

/-- Everything a repeated pass can do: find a preamble k bytes in (NOSYNC), or reject a candidate frame (SYNCED). -/
theorem Framer.pass_again_cases {f g : Framer} (h : f.pass = .again g) :
    f.halted = false ∧ f.frameReady = false ∧
    ((f.sync = false ∧ ∃ k, f.fbuf.findIdx? (fun b => b == preamble) = some k ∧
        g = { f.drop k with sync := true }) ∨
     (f.sync = true ∧ 6 + f.lengthField.toNat ≤ f.bcnt ∧
        f.computedCrc f.lengthField.toNat ≠ f.receivedCrc f.lengthField.toNat ∧
        g = { f.drop 1 with errorCount := f.errorCount + 1, sync := false })) := by
  unfold Framer.pass at h
  split at h
  · cases h
  · rename_i hi
    simp only [Bool.or_eq_true, not_or, Bool.not_eq_true] at hi
    refine ⟨hi.1, hi.2, ?_⟩
    split at h
    · rename_i hs
      unfold Framer.check at h
      split at h
      · cases h
      · dsimp only at h
        split at h
        · cases h
        · split at h
          · rename_i h6 hc
            exact .inr ⟨hs, by omega, hc, by simpa using h.symm⟩
          · cases h
    · rename_i hs
      unfold Framer.scan at h
      split at h
      · cases h
      · rename_i k hk
        exact .inl ⟨by simpa using hs, k, hk, by simpa using h.symm⟩

/-- Everything an exiting pass can do: nothing (halted, held, or waiting for bytes), discard every byte scanned (NOSYNC),
or hold a frame whose CRC matches (SYNCED). -/
theorem Framer.pass_exit_cases {f g : Framer} (h : f.pass = .exit g) :
    ((f.halted = true ∨ f.frameReady = true) ∧ g = f) ∨
    (f.halted = false ∧ f.frameReady = false ∧
     ((f.sync = false ∧ f.fbuf.findIdx? (fun b => b == preamble) = none ∧ g = f.drop f.bcnt) ∨
      (f.sync = true ∧ (f.bcnt < 3 ∨ f.bcnt < 6 + f.lengthField.toNat) ∧ g = f) ∨
      (f.sync = true ∧ 6 + f.lengthField.toNat ≤ f.bcnt ∧
        f.computedCrc f.lengthField.toNat = f.receivedCrc f.lengthField.toNat ∧
        g = { f with frameReady := true, flen := f.lengthField }))) := by
  unfold Framer.pass at h
  split at h
  · rename_i hi
    exact .inl ⟨by simpa using hi, by simpa using h.symm⟩
  · rename_i hi
    simp only [Bool.or_eq_true, not_or, Bool.not_eq_true] at hi
    refine .inr ⟨hi.1, hi.2, ?_⟩
    split at h
    · rename_i hs
      unfold Framer.check at h
      split at h
      · rename_i h3
        exact .inr (.inl ⟨hs, .inl h3, by simpa using h.symm⟩)
      · dsimp only at h
        split at h
        · rename_i h6
          exact .inr (.inl ⟨hs, .inr h6, by simpa using h.symm⟩)
        · split at h
          · cases h
          · rename_i h6 hc
            exact .inr (.inr ⟨hs, by omega, by simpa using hc, by simpa using h.symm⟩)
    · rename_i hs
      unfold Framer.scan at h
      split at h
      · rename_i hk
        exact .inl ⟨by simpa using hs, hk, by simpa using h.symm⟩
      · cases h

/-- A repeated pass lowers `2*bcnt + (1 - sync)` (42_framer.md R152). -/
theorem Framer.pass_again_measure {f g : Framer} (h : f.pass = .again g) : g.measure < f.measure := by
  obtain ⟨-, -, ⟨hs, k, -, rfl⟩ | ⟨hs, hb, -, rfl⟩⟩ := Framer.pass_again_cases h
  · simp only [Framer.measure, Framer.bcnt, Framer.drop_fbuf, List.length_drop, hs, Bool.toNat_true, Bool.toNat_false]
    omega
  · have : 0 < f.fbuf.length := by simp only [Framer.bcnt] at hb; omega
    simp only [Framer.measure, Framer.bcnt, Framer.drop_fbuf, List.length_drop, hs, Bool.toNat_true, Bool.toNat_false]
    omega

/-- Fuel above the measure changes nothing: the loop has reached its exit. -/
theorem settleLoop_fuel (n : Nat) : ∀ (m : Nat) (f : Framer), f.measure < n → f.measure < m →
    settleLoop n f = settleLoop m f := by
  induction n with
  | zero => intro m f h; omega
  | succ n ih =>
    intro m f hn hm
    obtain ⟨m, rfl⟩ : ∃ k, m = k + 1 := ⟨m - 1, by omega⟩
    simp only [settleLoop]
    split
    · rfl
    · rename_i g hg
      have := Framer.pass_again_measure hg
      exact ih m g (by omega) (by omega)

/-- One pass of settle's loop as an equation on settle: the loop of 42_framer.md R152 with no fuel in sight. -/
theorem Framer.settle_eq (f : Framer) :
    f.settle = match f.pass with
      | .exit g => g.endOfData
      | .again g => g.settle := by
  cases hp : f.pass with
  | exit g => simp [Framer.settle, settleLoop, hp]
  | again g =>
    have h := Framer.pass_again_measure hp
    show (settleLoop (f.measure + 1) f).endOfData = (settleLoop (g.measure + 1) g).endOfData
    rw [← settleLoop_fuel f.measure (g.measure + 1) g h (by omega)]
    simp [settleLoop, hp]

theorem Framer.settle_of_exit {f g : Framer} (h : f.pass = .exit g) : f.settle = g.endOfData := by
  rw [Framer.settle_eq, h]

theorem Framer.settle_of_again {f g : Framer} (h : f.pass = .again g) : f.settle = g.settle := by
  rw [Framer.settle_eq, h]

/-- Induction over a settle's passes: what the exit gives and every repeated pass carries back holds of every framer. -/
theorem Framer.settle_induction {motive : Framer → Prop}
    (exit : ∀ f g, f.pass = .exit g → motive f)
    (again : ∀ f g, f.pass = .again g → motive g → motive f) (f : Framer) : motive f := by
  induction hm : f.measure using Nat.strong_induction_on generalizing f with
  | _ m ih =>
    cases hp : f.pass with
    | exit g => exact exit f g hp
    | again g => exact again f g hp (ih _ (hm ▸ Framer.pass_again_measure hp) g rfl)

@[simp] theorem Framer.endOfData_halted (f : Framer) : f.endOfData.halted = f.halted := by
  unfold Framer.endOfData; split <;> rfl

@[simp] theorem Framer.endOfData_eod (f : Framer) : f.endOfData.eod = f.eod := by
  unfold Framer.endOfData; split <;> rfl

@[simp] theorem Framer.endOfData_frameReady (f : Framer) : f.endOfData.frameReady = f.frameReady := by
  unfold Framer.endOfData; split <;> rfl

@[simp] theorem Framer.endOfData_flen (f : Framer) : f.endOfData.flen = f.flen := by
  unfold Framer.endOfData; split <;> rfl

@[simp] theorem Framer.endOfData_errorCount (f : Framer) : f.endOfData.errorCount = f.errorCount := by
  unfold Framer.endOfData; split <;> rfl

/-- End of data is taken exactly when it is given, no frame is held and the framer is not halted (42_framer.md R158). -/
theorem Framer.endOfData_cases (f : Framer) :
    (f.eod = true ∧ f.frameReady = false ∧ f.halted = false ∧
      f.endOfData = { f with fbuf := [], sync := false, ended := true }) ∨
    ((f.eod = false ∨ f.frameReady = true ∨ f.halted = true) ∧ f.endOfData = f) := by
  unfold Framer.endOfData
  split
  · rename_i h
    simp only [Bool.and_eq_true, Bool.not_eq_true'] at h
    exact .inl ⟨h.1.1, h.1.2, h.2, by simp [Framer.drop]⟩
  · rename_i h
    refine .inr ⟨?_, rfl⟩
    cases he : f.eod <;> cases hr : f.frameReady <;> cases hh : f.halted <;> simp_all

/-- Everything settle's loop ends in, before end of data: from f it reaches some exiting pass. Stated through an invariant:
what holds of f and is kept by every repeated pass holds of the framer whose pass exits. -/
theorem Framer.settle_spec {inv : Framer → Prop} (keep : ∀ f g, inv f → f.pass = .again g → inv g) (f : Framer)
    (h : inv f) : ∃ g k, inv g ∧ g.pass = .exit k ∧ f.settle = k.endOfData := by
  induction f using Framer.settle_induction with
  | exit f g hg => exact ⟨f, g, h, hg, Framer.settle_of_exit hg⟩
  | again f g hg ih =>
    rw [Framer.settle_of_again hg]
    exact ih (keep f g h hg)

/-- settle never changes halted or eod. -/
@[simp] theorem Framer.settle_halted (f : Framer) : f.settle.halted = f.halted := by
  obtain ⟨g, k, hg, hk, he⟩ := Framer.settle_spec (inv := fun g => g.halted = f.halted) (fun a b ha hp => by
    obtain ⟨-, -, ⟨-, k, -, rfl⟩ | ⟨-, -, -, rfl⟩⟩ := Framer.pass_again_cases hp <;> simpa using ha) f rfl
  rw [he, Framer.endOfData_halted, ← hg]
  obtain ⟨-, rfl⟩ | ⟨-, -, ⟨-, -, rfl⟩ | ⟨-, -, rfl⟩ | ⟨-, -, -, rfl⟩⟩ := Framer.pass_exit_cases hk <;> rfl

@[simp] theorem Framer.settle_eod (f : Framer) : f.settle.eod = f.eod := by
  obtain ⟨g, k, hg, hk, he⟩ := Framer.settle_spec (inv := fun g => g.eod = f.eod) (fun a b ha hp => by
    obtain ⟨-, -, ⟨-, k, -, rfl⟩ | ⟨-, -, -, rfl⟩⟩ := Framer.pass_again_cases hp <;> simpa using ha) f rfl
  rw [he, Framer.endOfData_eod, ← hg]
  obtain ⟨-, rfl⟩ | ⟨-, -, ⟨-, -, rfl⟩ | ⟨-, -, rfl⟩ | ⟨-, -, -, rfl⟩⟩ := Framer.pass_exit_cases hk <;> rfl

/-- settle removes bytes only from the front of FBUF (10_state.md R27). -/
theorem Framer.settle_suffix (f : Framer) : f.settle.fbuf <:+ f.fbuf := by
  obtain ⟨g, k, hg, hk, he⟩ := Framer.settle_spec (inv := fun g => g.fbuf <:+ f.fbuf) (fun a b ha hp => by
    obtain ⟨-, -, ⟨-, k, -, rfl⟩ | ⟨-, -, -, rfl⟩⟩ := Framer.pass_again_cases hp <;>
      exact (List.drop_suffix _ _).trans ha) f (List.suffix_refl _)
  rw [he]
  have h1 : k.fbuf <:+ g.fbuf := by
    obtain ⟨-, rfl⟩ | ⟨-, -, ⟨-, -, rfl⟩ | ⟨-, -, rfl⟩ | ⟨-, -, -, rfl⟩⟩ := Framer.pass_exit_cases hk <;>
      first | exact List.suffix_refl _ | exact List.drop_suffix _ _
  have h2 : k.endOfData.fbuf <:+ k.fbuf := by
    obtain ⟨-, -, -, h⟩ | ⟨-, h⟩ := Framer.endOfData_cases k <;> rw [h]
    exact List.nil_suffix
  exact h2.trans (h1.trans hg)

/-- settle never makes FBUF longer. -/
theorem Framer.settle_bcnt_le (f : Framer) : f.settle.bcnt ≤ f.bcnt := (Framer.settle_suffix f).length_le

/-- A framer that holds a frame or is halted does nothing in a settle (42_framer.md R152, R158). -/
theorem Framer.settle_idle {f : Framer} (h : f.halted = true ∨ f.frameReady = true) : f.settle = f := by
  rw [Framer.settle_of_exit (Framer.pass_idle h)]
  obtain ⟨-, hr, hh, -⟩ | ⟨-, e⟩ := Framer.endOfData_cases f
  · simp [hr, hh] at h
  · exact e

end Sys2Proof.Machine
end

