-- ==== Sys2Proof/Laws/Memory.lean ====
section
/-! SUPPORT. Every memory operation keeps the buffers within their capacities (Memory.wf; 20_memory.md R50). -/

namespace Sys2Proof.Machine

/-- Reset lists nothing. -/
theorem memory_wf_resetWith (cfg : Config) : Memory.wf (State.resetWith cfg) :=
  ⟨Nat.zero_le _, Nat.zero_le _⟩

/-- Answering leaves the buffers alone. -/
theorem memory_wf_answer {s : State} (h : Memory.wf s) (st : Status) (d : Data) : Memory.wf (s.answer st d) := h

/-- Taking a command off the port leaves the buffers alone. -/
theorem memory_wf_takeCommand {s s' : State} {w : Word} (h : Memory.wf s) (ht : s.takeCommand = some (w, s')) :
    Memory.wf s' := by
  unfold State.takeCommand at ht
  split at ht
  · cases ht
  · cases ht; exact h

/-- A framer with no more bytes than before keeps the form. -/
theorem memory_wf_shrink {s : State} {f : Framer} (h : Memory.wf s) (hf : f.bcnt ≤ s.frm.bcnt) :
    Memory.wf { s with frm := f } := ⟨hf.trans h.1, h.2⟩

/-- Pushing a byte where there is room keeps the form. -/
theorem memory_wf_push {s : State} (h : Memory.wf s) (hb : s.frm.bcnt ≠ s.cfg.bufCap) (b : Byte) :
    Memory.wf { s with frm := s.frm.push b } := by
  refine ⟨(Framer.settle_bcnt_le _).trans ?_, h.2⟩
  have := h.1
  simp only [Framer.bcnt, Framer.append_fbuf, List.length_append, List.length_singleton] at *
  omega

/-- End of data keeps the form. -/
theorem memory_wf_giveEod {s : State} (h : Memory.wf s) : Memory.wf { s with frm := s.frm.giveEod } :=
  memory_wf_shrink h (Framer.settle_bcnt_le _)

/-- A verdict keeps the form. -/
theorem memory_wf_acknowledge {s : State} (h : Memory.wf s) (v : Verdict) :
    Memory.wf { s with frm := s.frm.acknowledge v } :=
  memory_wf_shrink h ((Framer.settle_bcnt_le _).trans (by simp [Framer.bcnt]))

/-- Appending a byte to CBUF where there is room keeps the form. -/
theorem memory_wf_curAppend {s : State} (h : Memory.wf s) (hc : s.cur.clen ≠ s.cfg.curCap) (b : Byte) :
    Memory.wf { s with cur := s.cur.append b } := by
  refine ⟨h.1, ?_⟩
  have := h.2
  simp only [Cursor.clen, Cursor.append_cbuf, List.length_append, List.length_singleton] at *
  omega

/-- Attaching a payload keeps the form, since every payload fits (40_bit_cursor.md R103). -/
theorem memory_wf_attach {s : State} (h : Memory.wf s) (hc : 1023 ≤ s.cfg.curCap) :
    Memory.wf { s with cur := { cbuf := s.frm.payload, cpos := 0 } } := by
  refine ⟨h.1, ?_⟩
  have := s.frm.flen.isLt
  simp only [Cursor.clen, Framer.length_payload]
  omega

/-- Moving cpos leaves the buffers alone. -/
theorem memory_wf_advance {s : State} (h : Memory.wf s) (n : Nat) : Memory.wf { s with cur := s.cur.advance n } := h

end Sys2Proof.Machine
end

