-- ==== Sys2Proof/Laws/PerInstr.lean ====
section
/-! SUPPORT. Facts about every command as syntax, one lemma per constructor. -/

namespace Sys2Proof.Laws.EncodedOpcode

/-- The word of a command carries the command's OP in bits 31:26 (30_encoding.md R70, R73) and its operand area below. -/
def Statement (i : Instr) : Prop :=
  opcodeField (encode i) = i.opcode ∧ (encode i).extractLsb' 0 26 = i.operandArea

/-- Both halves of a word are read back whole, whatever they are. -/
theorem word_halves (op : BitVec 6) (area : BitVec 26) :
    opcodeField (op ++ area) = op ∧ BitVec.extractLsb' 0 26 (op ++ area) = area := by
  have hb (i : Nat) : BitVec.getLsbD (op ++ area) i = if i < 26 then area.getLsbD i else op.getLsbD (i - 26) :=
    BitVec.getLsbD_append
  constructor <;> apply BitVec.eq_of_getLsbD_eq <;> intro i hi
  · rw [opcodeField, BitVec.getLsbD_extractLsb']
    simpa [hi] using hb (26 + i)
  · rw [BitVec.getLsbD_extractLsb']
    simpa [hi] using hb i

theorem nop : Statement .nop := word_halves _ _
theorem reset : Statement .reset := word_halves _ _
theorem crcInit : Statement .crcInit := word_halves _ _
theorem crcByte (b : Byte) : Statement (.crcByte b) := word_halves _ _
theorem crcRd : Statement .crcRd := word_halves _ _
theorem frmReset : Statement .frmReset := word_halves _ _
theorem frmPush (b : Byte) : Statement (.frmPush b) := word_halves _ _
theorem frmEod : Statement .frmEod := word_halves _ _
theorem frmAck (v : Verdict) : Statement (.frmAck v) := word_halves _ _
theorem frmStatus : Statement .frmStatus := word_halves _ _
theorem frmErrcnt : Statement .frmErrcnt := word_halves _ _
theorem frmRdpay (i : BitVec 10) : Statement (.frmRdpay i) := word_halves _ _
theorem curClear : Statement .curClear := word_halves _ _
theorem curAppend (b : Byte) : Statement (.curAppend b) := word_halves _ _
theorem curAttach : Statement .curAttach := word_halves _ _
theorem curRdu (n : BitVec 7) : Statement (.curRdu n) := word_halves _ _
theorem curRds (n : BitVec 7) : Statement (.curRds n) := word_halves _ _
theorem curSkip (n : BitVec 14) : Statement (.curSkip n) := word_halves _ _
theorem curStatus : Statement .curStatus := word_halves _ _

end Sys2Proof.Laws.EncodedOpcode
end

