-- ==== Sys2Proof/Tests/Slice0.lean ====
section
/-! SUPPORT. The model's own tests: words written out from 30_encoding.md, the vectors of 95_test_vectors.md one command at
a time, ill-formed terms, and for each statement with hypotheses concrete values that meet them. -/

namespace Sys2Proof.Tests

-- One theorem after another: many kernel evaluations at once need more threads than the sandbox's memory limit allows.
set_option Elab.async false

open Sys2Proof Sys2Proof.Machine

/-! ### Small states -/

/-- The state after an outcome, if it is a next state. -/
def after (o : Host.Outcome State Fault Refusal) : Option State :=
  match o with
  | .next t => some t
  | .fault _ => none
  | .refused _ => none

/-- The response in the state after an outcome. -/
def answerOf (o : Host.Outcome State Fault Refusal) : Option Response := (after o).bind (·.resp)

/-- The response to one command word. -/
def reply (s : State) (w : Nat) : Option Response := answerOf (step (s.withFetchWord 32 w))

/-- A synced framer over the given bytes. -/
def synced (bs : List Byte) : Framer := { Framer.reset with sync := true, fbuf := bs }

/-- A framer holding the frame at the front of the given bytes. -/
def holding (bs : List Byte) (l : BitVec 10) : Framer := { synced bs with frameReady := true, flen := l }

def haltedFramer : Framer := { Framer.reset with halted := true, fbuf := [0xD3] }
def endedFramer : Framer := { Framer.reset with eod := true, ended := true }

def withFrm (f : Framer) : State := { State.reset with frm := f }
def withCur (bs : List Byte) (p : BitVec 16) : State := { State.reset with cur := { cbuf := bs, cpos := p } }
def withPort (s : State) (w : Word) : State := { s with port := [w] }

/-- The frames of 95_test_vectors.md. -/
def f0 : List Byte := [0xD3, 0x00, 0x00, 0x47, 0xEA, 0x4B]
def fu : List Byte := [0xD3, 0x00, 0x02, 0xFF, 0xF0, 0x0D, 0x4D, 0x7C]
def f1005 : List Byte :=
  [0xD3, 0x00, 0x13, 0x3E, 0xD7, 0xD3, 0x02, 0x02, 0x98, 0x0E, 0xDE, 0xEF, 0x34, 0xB4, 0xBD, 0x62, 0xAC, 0x09, 0x41,
   0x98, 0x6F, 0x33, 0x36, 0x0B, 0x98]

def heldF0 : State := withFrm (holding f0 0)
def heldFu : State := withFrm (holding fu 2)
def held1005 : State := withFrm (holding f1005 19)

/-! ### Well-formedness: an ill-formed term for each check (30_encoding.md R74) -/

theorem test_wf_refuses_rdu_65 : (Instr.curRdu 65).wf = false := by decide
theorem test_wf_refuses_rds_127 : (Instr.curRds 127).wf = false := by decide
theorem test_wf_takes_64 : (Instr.curRdu 64).wf = true ∧ (Instr.curRds 64).wf = true := by decide

/-! ### Decoding: a word for every constructor, written out from 30_encoding.md R71 and R73 -/

theorem test_decode_nop : decode 0b00000000000000000000000000000000 = .ok .nop := by rfl
theorem test_decode_reset : decode 0b00000100000000000000000000000000 = .ok .reset := by rfl
theorem test_decode_crcInit : decode 0b00100000000000000000000000000000 = .ok .crcInit := by rfl
theorem test_decode_crcByte : decode 0b00100100000000000000000011010011 = .ok (.crcByte 0xD3) := by rfl
theorem test_decode_crcRd : decode 0b00101000000000000000000000000000 = .ok .crcRd := by rfl
theorem test_decode_frmReset : decode 0b01000000000000000000000000000000 = .ok .frmReset := by rfl
theorem test_decode_frmPush : decode 0b01000100000000000000000011010011 = .ok (.frmPush 0xD3) := by rfl
theorem test_decode_frmEod : decode 0b01001000000000000000000000000000 = .ok .frmEod := by rfl
theorem test_decode_frmAck :
    decode 0b01001100000000000000000000000000 = .ok (.frmAck .ok) ∧
    decode 0b01001100000000000000000000000001 = .ok (.frmAck .okStop) ∧
    decode 0b01001100000000000000000000000010 = .ok (.frmAck .fail) := ⟨rfl, rfl, rfl⟩
theorem test_decode_frmStatus : decode 0b01010000000000000000000000000000 = .ok .frmStatus := by rfl
theorem test_decode_frmErrcnt : decode 0b01010100000000000000000000000000 = .ok .frmErrcnt := by rfl
theorem test_decode_frmRdpay : decode 0b01011000000000000000001111111110 = .ok (.frmRdpay 1022) := by rfl
theorem test_decode_curClear : decode 0b10000000000000000000000000000000 = .ok .curClear := by rfl
theorem test_decode_curAppend : decode 0b10000100000000000000000010100101 = .ok (.curAppend 0xA5) := by rfl
theorem test_decode_curAttach : decode 0b10001000000000000000000000000000 = .ok .curAttach := by rfl
theorem test_decode_curRdu : decode 0b10001100000000000000000001000000 = .ok (.curRdu 64) := by rfl
theorem test_decode_curRds : decode 0b10010000000000000000000000100110 = .ok (.curRds 38) := by rfl
theorem test_decode_curSkip : decode 0b10010100000000000010001111101000 = .ok (.curSkip 9192) := by rfl
theorem test_decode_curStatus : decode 0b10011000000000000000000000000000 = .ok .curStatus := by rfl

/-- The illegal words of 95_test_vectors.md section 2, rejected by name. -/
theorem test_decode_rejects :
    decode 0x00000001 = .error .reservedBit ∧ decode 0x08000000 = .error .unknownOpcode ∧
    decode 0xFC000000 = .error .unknownOpcode ∧ decode 0x4C000003 = .error .illegalVerdict ∧
    decode 0x4C000004 = .error .reservedBit ∧ decode 0x8C000041 = .error .illegalWidth ∧
    decode 0x90000080 = .error .reservedBit ∧ decode 0x440001D3 = .error .reservedBit ∧
    decode 0x94004000 = .error .reservedBit ∧ decode 0x58000400 = .error .reservedBit ∧
    decode 0x98000001 = .error .reservedBit := ⟨rfl, rfl, rfl, rfl, rfl, rfl, rfl, rfl, rfl, rfl, rfl⟩

theorem test_decode_table_word :
    decodeTableWord 32 0x440000D3 = some (.frmPush 0xD3) ∧ decodeTableWord 32 0x4C000003 = none := by decide

/-! ### One command at a time; expected answers from 95_test_vectors.md -/

/-- Section 2: an illegal word is answered ILLEGAL; V-R13: and leaves crc_reg. -/
theorem test_illegal : reply State.reset 0x4C000003 = some ⟨.illegal, 0⟩ ∧
    (after (step ({ State.reset with crcReg := 5 }.withFetchWord 32 0x24000100))).map (·.crcReg) = some 5 := by
  decide +kernel

/-- The port idle: nothing changes (60_exceptions.md R232). -/
theorem test_idle : after (step State.reset) = some State.reset := by decide +kernel

/-- Section 6: NOP. -/
theorem test_nop : reply heldFu 0x00000000 = some ⟨.ok, 0⟩ := by decide +kernel

/-- Section 6: RESET, then FRM_STATUS and in_ready_out as at reset. -/
theorem test_reset : (after (exec .reset { heldFu with crcReg := 5 })).map (fun t => (t.frm, t.cur, t.crcReg)) =
    some (Framer.reset, Cursor.reset, 0) := by decide +kernel

/-- V-R3 to V-R5 and V-R6, the CRC of "123456789". -/
theorem test_crcByte : reply State.reset 0x24000001 = some ⟨.ok, 0⟩ ∧
    crc24q [0x01] = 0x864CFB ∧ crc24q [0x80] = 0x3347A4 ∧ crc24q [0xFF] = 0xDD8538 ∧
    crc24q [0x31, 0x32, 0x33, 0x34, 0x35, 0x36, 0x37, 0x38, 0x39] = 0xCDE703 := by decide +kernel

/-- V-R8 and V-R9: the CRC of the 1005 frame, and its residue. -/
theorem test_crc_1005 : crc24q (f1005.take 22) = 0x360B98 ∧ crc24q f1005 = 0 := by decide +kernel

/-- Program P1: the result bytes in the order sent (41_crc24q.md R136). -/
theorem test_crcBytes : crcBytes (crc24q (fu.take 5)) = fu.drop 5 := by decide +kernel

theorem test_crcInit : (after (exec .crcInit { State.reset with crcReg := 5 })).map (·.crcReg) = some 0 := by
  decide +kernel

/-- V-R12: a read does not disturb the CRC. -/
theorem test_crcRd : after (exec .crcRd { State.reset with crcReg := 0x548AB0 }) =
    some ({ State.reset with crcReg := 0x548AB0 }.answer .ok 0x548AB0) := by decide +kernel

/-- V-F1: the 25th byte completes the frame. -/
theorem test_frmPush_completes :
    (after (exec (.frmPush 0x98) (withFrm (synced (f1005.take 24))))).map (·.frm) = some (holding f1005 19) := by
  decide +kernel

/-- V-F3: the 11th byte rejects the outer header, and the frame inside it is held in the same push. -/
theorem test_frmPush_resync :
    (after (exec (.frmPush 0x00) (withFrm (synced ([0xD3, 0x00, 0x05] ++ f0 ++ [0x00]))))).map (·.frm) =
      some { holding (f0 ++ [0x00, 0x00]) 0 with errorCount := 1 } := by decide +kernel

/-- V-F4: end of data discards the partial header without a count. -/
theorem test_frmEod : (after (exec .frmEod (withFrm (synced [0xD3, 0x00])))).map (·.frm) = some endedFramer := by
  decide +kernel

/-- V-F8: with a frame held, end of data waits. -/
theorem test_frmEod_held : (after (exec .frmEod heldF0)).map (·.frm) = some { holding f0 0 with eod := true } := by
  decide +kernel

/-- V-F6: FAIL counts one and consumes the frame. -/
theorem test_frmAck_fail : (after (exec (.frmAck .fail) heldFu)).map (·.frm) =
    some { Framer.reset with errorCount := 1 } := by decide +kernel

/-- V-F7: OK_STOP halts with the bytes after the frame unexamined. -/
theorem test_frmAck_okStop : (after (exec (.frmAck .okStop) (withFrm (holding (fu ++ f0) 2)))).map (·.frm) =
    some { Framer.reset with halted := true, fbuf := f0 } := by decide +kernel

/-- V-F1 and V-F6: the status words of the held frames. -/
theorem test_frmStatus : reply held1005 0x50000000 = some ⟨.ok, 0x190133ED23⟩ ∧
    reply heldFu 0x50000000 = some ⟨.ok, 0x8002FFF23⟩ ∧ reply heldF0 0x50000000 = some ⟨.ok, 0x600000003⟩ := by
  decide +kernel

/-- V-F11: the count wraps. -/
theorem test_frmErrcnt : reply (withFrm { Framer.reset with errorCount := 2 }) 0x54000000 = some ⟨.ok, 2⟩ ∧
    (after (exec (.frmAck .fail) (withFrm { holding f0 0 with errorCount := 0xFFFFFFFFFFFFFFFF }))).map
      (·.frm.errorCount) = some 0 := by decide +kernel

/-- V-F1: the first and last payload bytes, and the index after them. -/
theorem test_frmRdpay : reply held1005 0x58000000 = some ⟨.ok, 0x3E⟩ ∧ reply held1005 0x58000012 = some ⟨.ok, 0x33⟩ ∧
    reply held1005 0x58000013 = some ⟨.range, 0⟩ ∧ reply State.reset 0x58000000 = some ⟨.noFrame, 0⟩ := by decide +kernel

/-- FRM_RESET discards a held frame and leaves the cursor (42_framer.md R160). -/
theorem test_frmReset : (after (exec .frmReset { heldFu with cur := { cbuf := [1], cpos := 3 } })).map
    (fun t => (t.frm, t.cur)) = some (Framer.reset, { cbuf := [1], cpos := 3 }) := by decide +kernel

/-- CUR_CLEAR (40_bit_cursor.md R101). -/
theorem test_curClear : (after (exec .curClear (withCur [0xFF] 3))).map (·.cur) = some Cursor.reset := by decide +kernel

/-- V-C4: appending to an exhausted cursor. -/
theorem test_curAppend : (after (exec (.curAppend 0x80) (withCur [0xA5] 8))).map (·.cur) =
    some { cbuf := [0xA5, 0x80], cpos := 8 } := by decide +kernel

/-- Program P4: the payload of FU; V-F9: none held. -/
theorem test_curAttach : (after (exec .curAttach heldFu)).map (·.cur) = some { cbuf := [0xFF, 0xF0], cpos := 0 } ∧
    reply State.reset 0x88000000 = some ⟨.noFrame, 0⟩ := by decide +kernel

/-- V-C1 and V-C3: a field across bytes, and 64 bits from bit 1. -/
theorem test_curRdu : reply (withCur [0x3E, 0xD7, 0xD3] 12) 0x8C00000C = some ⟨.ok, 0x7D3⟩ ∧
    reply (withCur [0x12, 0x34, 0x56, 0x78, 0x9A, 0xBC, 0xDE, 0xF0, 0x81] 1) 0x8C000040 =
      some ⟨.ok, 0x2468ACF13579BDE1⟩ := by decide +kernel

/-- V-C1: out of bits leaves the position. -/
theorem test_curRdu_out : (after (exec (.curRdu 1) (withCur [0x3E, 0xD7, 0xD3] 24))).map (fun t => (t.cur.cpos, t.resp)) =
    some (24, some ⟨.outOfBits, 0⟩) := by decide +kernel

/-- V-C2 and V-C3: one bit, 64 bits, and a positive value. -/
theorem test_curRds : reply (withCur [0x80, 0x7F] 0) 0x90000001 = some ⟨.ok, 0xFFFFFFFFFFFFFFFF⟩ ∧
    reply (withCur [0x80, 0, 0, 0, 0, 0, 0, 0, 1] 0) 0x90000040 = some ⟨.ok, 0x8000000000000000⟩ ∧
    reply (withCur [0x80, 0x7F] 8) 0x90000008 = some ⟨.ok, 0x7F⟩ := by decide +kernel

/-- V-C2: reading no bits, at the end of the buffer. -/
theorem test_curRds_zero : (after (exec (.curRds 0) (withCur [0x80] 8))).map (fun t => (t.cur.cpos, t.resp)) =
    some (8, some ⟨.ok, 0⟩) := by decide +kernel

/-- V-C4: a skip past the end, and one to it. -/
theorem test_curSkip : reply (withCur [0xA5] 0) 0x94000009 = some ⟨.outOfBits, 0⟩ ∧
    (after (exec (.curSkip 8) (withCur [0xA5] 0))).map (·.cur.cpos) = some 8 := by decide +kernel

/-- 40_bit_cursor.md R107's example. -/
theorem test_curStatus : reply (withCur (f1005.drop 3 |>.take 19) 12) 0x98000000 = some ⟨.ok, 0x13000C⟩ := by
  decide +kernel

/-! ### The invariants hold in the sample states -/

theorem inv_withFrm {f : Framer} (h : f.bcnt ≤ 2048) (hf : f.Inv) : (withFrm f).Inv :=
  ⟨by show Config.default.Legal; decide, ⟨h, by show 0 ≤ 1024; decide⟩, by show 0 ≤ 0; decide, hf⟩

theorem inv_heldF0 : heldF0.Inv :=
  inv_withFrm (by decide) ⟨by decide +kernel, by decide, by decide, by decide, by decide, by decide, by decide⟩

theorem inv_heldFu : heldFu.Inv :=
  inv_withFrm (by decide) ⟨by decide +kernel, by decide, by decide, by decide, by decide, by decide, by decide⟩

theorem inv_halted : (withFrm haltedFramer).Inv :=
  inv_withFrm (by decide) ⟨by decide, by decide, by decide, by decide, by decide, by decide, by decide⟩

theorem inv_ended : (withFrm endedFramer).Inv :=
  inv_withFrm (by decide) ⟨by decide, by decide, by decide, by decide, by decide, by decide, by decide⟩

theorem inv_waiting : (withFrm (synced [0xD3])).Inv :=
  inv_withFrm (by decide) ⟨by decide, by decide, by decide, by decide, by decide, by decide, by decide⟩

theorem inv_empty : (withFrm Framer.reset).Inv :=
  inv_withFrm (by decide) ⟨by decide, by decide, by decide, by decide, by decide, by decide, by decide⟩

theorem inv_cursor : (withCur [0x12, 0x34, 0x56, 0x78, 0x9A, 0xBC, 0xDE, 0xF0, 0x81] 1).Inv :=
  ⟨by decide, ⟨by decide, by decide⟩, by decide, inv_empty.framer⟩

/-! ### Witnesses: for each statement with hypotheses, values that meet them all, one per clause -/

theorem witness_EncodedCommandDecodesToItself : (Instr.curRdu 64).wf = true := by decide

theorem witness_DecodedWordIsTheCommandsWord : decode 0x94003FFF = .ok (.curSkip 16383) := rfl

theorem witness_IllegalWordsChangeNothing : (withPort heldFu 0x8C000041).port = 0x8C000041 :: [] ∧
    IllegalWord 0x8C000041 := ⟨rfl, by decide⟩

/-- Every cause of R74 at the boundary of its range, and the legal words next to them. -/
theorem witness_IllegalWordsChangeNothing_causes :
    IllegalWord 0x08000000 ∧ IllegalWord 0x02000000 ∧ IllegalWord 0x24000100 ∧ IllegalWord 0x4C000004 ∧
    IllegalWord 0x58000400 ∧ IllegalWord 0x90000080 ∧ IllegalWord 0x94004000 ∧ IllegalWord 0x4C000003 ∧
    ¬ IllegalWord 0x8C000040 ∧ ¬ IllegalWord 0x4C000002 ∧ ¬ IllegalWord 0x94003FFF :=
  ⟨by decide, by decide, by decide, by decide, by decide, by decide, by decide, by decide, by decide, by decide, by decide⟩

theorem witness_StepRunsTheDecodedCommand : (withPort State.reset 0x440000D3).port = 0x440000D3 :: [] ∧
    decode 0x440000D3 = .ok (.frmPush 0xD3) ∧ State.reset.port = [] := ⟨rfl, rfl, rfl⟩

theorem witness_EveryWordGetsOneResponse : (withPort State.reset 0x440000D3).port = 0x440000D3 :: [] := rfl

theorem witness_EveryWordGetsOneResponse_data :
    ∃ t, step (withPort heldFu 0x58000000) = .next t ∧ t.resp = some ⟨.ok, 0xFF⟩ := ⟨_, rfl, by decide +kernel⟩

theorem witness_FailedCommandChangesNoState : ∃ t r, (withPort State.reset 0x4C000000).port = 0x4C000000 :: [] ∧
    step (withPort State.reset 0x4C000000) = .next t ∧ t.resp = some r ∧ r.status ≠ .ok :=
  ⟨_, _, rfl, rfl, rfl, by decide⟩

/-- Each status is raised somewhere. -/
theorem witness_StatusesHaveTheirCauses :
    reply State.reset 0xFC000000 = some ⟨.illegal, 0⟩ ∧ reply State.reset 0x8C000001 = some ⟨.outOfBits, 0⟩ ∧
    reply State.reset 0x4C000000 = some ⟨.noFrame, 0⟩ ∧ reply { heldF0 with cfg := ⟨6, 0⟩ } 0x44000000 = some ⟨.full, 0⟩ ∧
    reply { heldF0 with cfg := ⟨6, 0⟩ } 0x84000000 = some ⟨.full, 0⟩ ∧
    reply (withFrm haltedFramer) 0x48000000 = some ⟨.halted, 0⟩ ∧
    reply (withFrm endedFramer) 0x48000000 = some ⟨.ended, 0⟩ ∧ reply heldFu 0x58000002 = some ⟨.range, 0⟩ := by
  decide +kernel

/-- FBUF and CBUF full at legal capacities. -/
def fullState : State :=
  { heldF0 with cfg := ⟨1029, 1023⟩, frm := holding (f0 ++ List.replicate 1023 0) 0,
                cur := { cbuf := List.replicate 1023 0, cpos := 0 } }

theorem witness_FailuresAreReportedInPriorityOrder :
    (withFrm haltedFramer).frm.halted = true ∧
    ((withFrm endedFramer).frm.halted = false ∧ (withFrm endedFramer).frm.eod = true) ∧
    (fullState.frm.halted = false ∧ fullState.frm.eod = false ∧ fullState.frm.bcnt = fullState.cfg.bufCap) ∧
    State.reset.frm.frameReady = false ∧ (heldFu.frm.frameReady = true ∧ heldFu.frm.flen.toNat ≤ (2 : BitVec 10).toNat) ∧
    fullState.cur.clen = fullState.cfg.curCap := by decide +kernel

theorem witness_FailuresAreReportedInPriorityOrder_halted :
    (withFrm haltedFramer).Inv ∧ (withFrm haltedFramer).frm.halted = true := ⟨inv_halted, rfl⟩

theorem witness_ResetGivesEveryResetValue : { heldFu with cfg := ⟨1029, 1023⟩ }.cfg.Legal := by decide

theorem witness_NopChangesNothing : (0x02000000 : Word).extractLsb' 26 6 = 0 ∧ (0x02000000 : Word) ≠ 0 := by decide

theorem witness_EachCommandWritesOnlyItsState :
    (∃ t, exec (.frmPush 0xD3) State.reset = .next t ∧ (Instr.frmPush 0xD3).writesCrc = false ∧
      (Instr.frmPush 0xD3).writesCbuf = false ∧ (Instr.frmPush 0xD3).writesCpos = false ∧
      (Instr.frmPush 0xD3).resetsFramer = false ∧ Instr.frmPush 0xD3 ≠ .frmEod ∧
      ∀ v, Instr.frmPush 0xD3 ≠ .frmAck v) ∧
    (∃ t, exec .curAttach heldFu = .next t ∧ Instr.curAttach.runsSettle = false ∧ Instr.curAttach.resetsFramer = false) :=
  ⟨⟨_, rfl, rfl, rfl, rfl, rfl, nofun, fun _ => nofun⟩, ⟨_, rfl, rfl, rfl⟩⟩

theorem witness_ReadsAndResetsAreIdempotent :
    (∃ t, Instr.frmStatus.readOnly = true ∧ exec .frmStatus heldFu = .next t) ∧
    (∃ t, exec .frmReset heldFu = .next t) ∧
    (∃ t, (withFrm (synced [0xD3])).frm.halted = false ∧ (withFrm (synced [0xD3])).frm.eod = false ∧
      exec .frmEod (withFrm (synced [0xD3])) = .next t) :=
  ⟨⟨_, rfl, rfl⟩, ⟨_, rfl⟩, ⟨_, rfl, rfl, rfl⟩⟩

theorem witness_FrmStatusWordHasItsFields : heldFu.Inv := inv_heldFu

theorem witness_CurStatusWordHasItsFields : (withCur [0x12, 0x34, 0x56, 0x78, 0x9A, 0xBC, 0xDE, 0xF0, 0x81] 1).Inv :=
  inv_cursor

theorem witness_OutputSignalsShowTheState : Memory.wf fullState ∧ fullState.inReadyOut = false ∧
    Memory.wf State.reset ∧ State.reset.inReadyOut = true := by decide +kernel

theorem witness_CrcRegisterHoldsTheCrcOfTheBytesFed :
    (∀ i ∈ [Instr.crcByte 0x01, .frmPush 0xD3, .crcRd], i.writesCrc = true → ∃ b, i = .crcByte b) ∧
    (∃ t, (Instr.frmPush 0xD3).ofFramer = true ∧ exec (.frmPush 0xD3) State.reset = .next t) := by
  refine ⟨?_, ⟨_, rfl, rfl⟩⟩
  intro i hi hw
  simp only [List.mem_cons, List.not_mem_nil, or_false] at hi
  rcases hi with rfl | rfl | rfl
  · exact ⟨_, rfl⟩
  · cases hw
  · cases hw

/-- A read of 64 bits from bit 1, of exactly the bits remaining, and of no bits at the end. -/
theorem witness_CurRduReadsAnUnsignedField :
    (64 : BitVec 7).toNat ≤ 64 ∧
    (64 : BitVec 7).toNat ≤ 8 * (withCur [1, 2, 3, 4, 5, 6, 7, 8, 9] 1).cur.clen - (1 : BitVec 16).toNat ∧
    (7 : BitVec 7).toNat ≤ 8 * (withCur [1] 1).cur.clen - (1 : BitVec 16).toNat ∧
    (0 : BitVec 7).toNat ≤ 8 * (withCur [1] 8).cur.clen - (8 : BitVec 16).toNat := by decide

/-- A negative and a positive field of 64 bits, and a field of no bits. -/
theorem witness_CurRdsReadsASignedField :
    (64 : BitVec 7).toNat ≤ 8 * (withCur [0x80, 2, 3, 4, 5, 6, 7, 8] 0).cur.clen - (0 : BitVec 16).toNat ∧
    streamBit [0x80, 2, 3, 4, 5, 6, 7, 8] 0 = true ∧ streamBit [0x7F, 2, 3, 4, 5, 6, 7, 8] 0 = false ∧
    (0 : BitVec 7).toNat ≤ 8 * (withCur [] 0).cur.clen - (0 : BitVec 16).toNat := by decide

theorem witness_CurSkipDiscardsBits :
    (16383 : BitVec 14).toNat ≤ 8 * (withCur (List.replicate 2048 0) 1).cur.clen - (1 : BitVec 16).toNat := by
  decide +kernel

theorem witness_OutOfBitsCheckIsExact :
    (Instr.curRdu 64).wf = true ∧ (Instr.curRdu 64).bitCount = some 64 ∧
    8 * (withCur [1, 2, 3, 4, 5, 6, 7, 8] 1).cur.clen - (1 : BitVec 16).toNat < 64 ∧
    (Instr.curSkip 71).bitCount = some (8 * (withCur [0x12, 0x34, 0x56, 0x78, 0x9A, 0xBC, 0xDE, 0xF0, 0x81] 1).cur.clen -
      (withCur [0x12, 0x34, 0x56, 0x78, 0x9A, 0xBC, 0xDE, 0xF0, 0x81] 1).cur.cpos.toNat) ∧
    (withCur [0x12, 0x34, 0x56, 0x78, 0x9A, 0xBC, 0xDE, 0xF0, 0x81] 1).Inv :=
  ⟨by decide, by decide, by decide, by decide, inv_cursor⟩

theorem witness_TwoReadsGiveTheBitsOfOne :
    (withCur [0x12, 0x34, 0x56, 0x78, 0x9A, 0xBC, 0xDE, 0xF0, 0x81] 1).Inv ∧
    (12 : BitVec 7).toNat + (52 : BitVec 7).toNat = (64 : BitVec 7).toNat ∧
    (64 : BitVec 7).toNat ≤ 8 * (withCur [0x12, 0x34, 0x56, 0x78, 0x9A, 0xBC, 0xDE, 0xF0, 0x81] 1).cur.clen -
      (1 : BitVec 16).toNat := ⟨inv_cursor, by decide, by decide⟩

theorem witness_AlignedReadsAnswerWholeBytes :
    (withCur [0x12, 0x34, 0x56] 8).cur.cpos.toNat = 8 * 1 ∧ 1 + 1 < (withCur [0x12, 0x34, 0x56] 8).cur.clen := by decide

theorem witness_ReadsStayInsideCbuf : ∃ t d, (Instr.curRdu 7).bitCount = some 7 ∧
    exec (.curRdu 7) (withCur [0xFF] 1) = .next t ∧ t.resp = some ⟨.ok, d⟩ := ⟨_, _, rfl, rfl, rfl⟩

theorem witness_CurAppendStoresOneByte : (withCur (List.replicate 1023 0) 0).cur.clen ≠ State.reset.cfg.curCap := by
  decide +kernel

theorem witness_CurAttachCopiesThePayload : heldFu.frm.frameReady = true ∧ 1 < heldFu.frm.flen.toNat := by decide

theorem witness_NosyncScanFindsTheFirstPreamble :
    ({ Framer.reset with fbuf := [0x00, 0xD3, 0x01] } : Framer).fbuf = [0x00] ++ 0xD3 :: [0x01] ∧
    (0xD3 : Byte) ∉ ([0x00] : List Byte) ∧ Framer.reset.halted = false ∧ Framer.reset.frameReady = false ∧
    Framer.reset.sync = false ∧ Framer.reset.eod = false ∧ (0xD3 : Byte) ∉ ([0x00, 0x55] : List Byte) := by decide

/-- Two bytes of a header, and a frame one byte short. -/
theorem witness_SyncedWaitsForTheWholeFrame :
    (synced [0xD3, 0x00]).halted = false ∧ (synced [0xD3, 0x00]).frameReady = false ∧ (synced [0xD3, 0x00]).eod = false ∧
    (synced [0xD3, 0x00]).sync = true ∧ (synced [0xD3, 0x00]).bcnt < 3 ∧
    (synced (fu.take 7)).bcnt < 6 + (((synced (fu.take 7)).byte 1).extractLsb' 0 2 ++ (synced (fu.take 7)).byte 2).toNat ∧
    (synced (fu.take 7)).halted = false ∧ (synced (fu.take 7)).sync = true := by decide +kernel

theorem witness_CrcMismatchDropsOneByte :
    let f := synced [0xD3, 0x00, 0x00, 0x00, 0x00, 0x01]
    f.halted = false ∧ f.frameReady = false ∧ f.sync = true ∧ 3 ≤ f.bcnt ∧
    0 = ((f.byte 1).extractLsb' 0 2 ++ f.byte 2).toNat ∧ 6 + 0 ≤ f.bcnt ∧
    crc24q (f.fbuf.take 3) ≠ f.byte 3 ++ f.byte 4 ++ f.byte 5 := by decide +kernel

theorem witness_CrcMatchHoldsTheFrame :
    let f := synced fu
    f.halted = false ∧ f.frameReady = false ∧ f.sync = true ∧ 3 ≤ f.bcnt ∧
    2 = ((f.byte 1).extractLsb' 0 2 ++ f.byte 2).toNat ∧ 6 + 2 ≤ f.bcnt ∧
    crc24q (f.fbuf.take (3 + 2)) = f.byte (3 + 2) ++ f.byte (4 + 2) ++ f.byte (5 + 2) := by decide +kernel

theorem witness_FrmPushAppendsAndSettles :
    heldFu.frm.halted = false ∧ heldFu.frm.eod = false ∧ heldFu.frm.bcnt ≠ heldFu.cfg.bufCap ∧
    heldFu.frm.frameReady = true := by decide +kernel

theorem witness_FrmEodEndsTheStream :
    ((withFrm (synced [0xD3])).Inv ∧ (withFrm (synced [0xD3])).frm.halted = false ∧
      (withFrm (synced [0xD3])).frm.eod = false ∧ (withFrm (synced [0xD3])).frm.frameReady = false) ∧
    (heldFu.Inv ∧ heldFu.frm.halted = false ∧ heldFu.frm.eod = false ∧ heldFu.frm.frameReady = true) :=
  ⟨⟨inv_waiting, rfl, rfl, rfl⟩, ⟨inv_heldFu, rfl, rfl, rfl⟩⟩

theorem witness_FrmAckConsumesTheFrame : heldFu.frm.frameReady = true := rfl

theorem witness_FrmRdpayAnswersThePayloadByte :
    heldFu.frm.frameReady = true ∧ (1 : BitVec 10).toNat < heldFu.frm.flen.toNat := by decide

theorem witness_FbufLosesOnlyItsFront :
    (∃ t, (Instr.frmPush 0xD3).runsSettle = true ∧ exec (.frmPush 0xD3) heldFu = .next t ∧ t.resp = some ⟨.ok, 0⟩ ∧
      8 < t.frm.bcnt) ∧
    (∃ t, (Instr.frmAck .ok).runsSettle = true ∧ exec (.frmAck .ok) heldFu = .next t ∧ t.resp = some ⟨.ok, 0⟩) :=
  ⟨⟨_, rfl, rfl, rfl, by decide +kernel⟩, ⟨_, rfl, rfl, rfl⟩⟩

theorem witness_HeldFrameStaysUntilAcknowledged : ∃ t, heldFu.Inv ∧ heldFu.frm.frameReady = true ∧
    exec (.frmPush 0xD3) heldFu = .next t ∧ (Instr.frmPush 0xD3).resetsFramer = false ∧
    (∀ v, Instr.frmPush 0xD3 ≠ .frmAck v) ∧ 7 < 6 + heldFu.frm.flen.toNat :=
  ⟨_, inv_heldFu, rfl, rfl, rfl, fun _ => nofun, by decide⟩

theorem witness_HaltedFramerIsFrozen :
    (∃ t, (withFrm haltedFramer).Inv ∧ exec (.frmPush 0) (withFrm haltedFramer) = .next t ∧
      (withFrm haltedFramer).frm.halted = true ∧ (Instr.frmPush 0).resetsFramer = false) ∧
    (∃ t, exec .frmReset (withFrm haltedFramer) = .next t ∧ Instr.frmReset.resetsFramer = true) ∧
    (∃ t, heldFu.Inv ∧ exec (.frmAck .okStop) heldFu = .next t ∧ heldFu.frm.halted = false ∧ t.frm.halted = true ∧
      heldFu.frm.frameReady = true) :=
  ⟨⟨_, inv_halted, rfl, rfl, rfl⟩, ⟨_, rfl, rfl⟩, ⟨_, inv_heldFu, rfl, rfl, by decide +kernel, rfl⟩⟩

theorem inv_full : fullState.Inv :=
  ⟨by decide, by decide +kernel, by decide +kernel,
    ⟨by decide +kernel, by decide +kernel, by decide +kernel, by decide +kernel, by decide +kernel, by decide +kernel,
      by decide +kernel⟩⟩

theorem witness_PushIsNeverFullWithoutAFrame :
    ((withFrm Framer.reset).Inv ∧ (withFrm Framer.reset).frm.sync = false) ∧
    ((withFrm (synced [0xD3])).Inv ∧ (withFrm (synced [0xD3])).frm.halted = false ∧
      (withFrm (synced [0xD3])).frm.frameReady = false) ∧
    (fullState.Inv ∧ answerOf (exec (.frmPush 0) fullState) = some ⟨.full, 0⟩) :=
  ⟨⟨inv_empty, rfl⟩, ⟨inv_waiting, rfl, rfl⟩, ⟨inv_full, by decide +kernel⟩⟩

theorem witness_EveryStepKeepsTheInvariants :
    ∃ t, (withPort heldFu 0x4C000000).Inv ∧ step (withPort heldFu 0x4C000000) = .next t :=
  ⟨_, ⟨inv_heldFu.legal, inv_heldFu.memory, inv_heldFu.cursor, inv_heldFu.framer⟩, rfl⟩

theorem witness_InvariantsHoldAtReset : Config.default.Legal ∧ (Config.mk 65535 8191).Legal := by decide

theorem witness_PushingOneByOneEqualsSettlingOnce :
    Framer.reset.eod = false ∧ Framer.reset.settle = Framer.reset ∧ (synced [0xD3]).settle = synced [0xD3] := by
  decide +kernel

theorem witness_PushCommutesWithAcknowledge : heldFu.Inv ∧ heldFu.frm.frameReady = true ∧ heldFu.frm.eod = false ∧
    heldFu.frm.bcnt < heldFu.cfg.bufCap ∧ Verdict.fail ≠ .okStop := ⟨inv_heldFu, rfl, rfl, by decide, by decide⟩

/-- A stream with a candidate frame whose CRC is wrong holds no frame at any offset. -/
theorem witness_StreamWithoutFramesHoldsNone :
    Config.default.Legal ∧ ∀ k, ¬ FrameAtFront (([0x00, 0xD3, 0x00, 0x00, 0x00, 0x00, 0x01] : List Byte).drop k) := by
  refine ⟨by decide, fun k => ?_⟩
  by_cases hk : k < 7
  · exact (by decide +kernel :
      ∀ j < 7, ¬ FrameAtFront (([0x00, 0xD3, 0x00, 0x00, 0x00, 0x00, 0x01] : List Byte).drop j)) k hk
  · rw [List.drop_eq_nil_of_le (by simp; omega)]
    decide

end Sys2Proof.Tests
end

section
/-! PROOFS. A step on the first pending word, and the signed cursor read. -/

namespace Sys2Proof.Machine

/-! ### One step -/

/-- 00_scope.md R10: a legal word at the head of the port is performed on the state without it. -/
theorem step_of_decode {s : State} {w : Word} {rest : List Word} {i : Instr} (hport : s.port = w :: rest)
    (hdec : decode w = .ok i) : step s = exec i { s with port := rest } := by
  simp only [step, State.takeCommand_cons hport, hdec]

/-- 60_exceptions.md R232: between commands the engine waits. -/
theorem step_of_no_word {s : State} (hport : s.port = []) : step s = .next s := by
  simp only [step, State.takeCommand_nil hport]

/-! ### Consuming bits -/

/-- cpos plus n, taken once modulo 2^16, whether or not the sum wraps. -/
theorem Cursor.advance_eq_ofNat (c : Cursor) (n : Nat) :
    c.advance n = { c with cpos := BitVec.ofNat 16 (c.cpos.toNat + n) } := by
  simp [Cursor.advance, BitVec.ofNat_add]

/-- 40_bit_cursor.md R100, the success case of `State.consumeBits_cases` with the new cpos written out. -/
theorem State.consumeBits_of_le {s : State} {n : Nat} (result : Cursor → Data) (h : n ≤ s.cur.remaining) :
    s.consumeBits n result = .next
      ({ s with cur := { s.cur with cpos := BitVec.ofNat 16 (s.cur.cpos.toNat + n) } }.answer .ok (result s.cur)) := by
  obtain ⟨hlt, -⟩ | ⟨-, heq⟩ := s.consumeBits_cases n result
  · omega
  · rw [heq, Cursor.advance_eq_ofNat]

/-- 40_bit_cursor.md R105: at a legal width the ILLEGAL answer of log entry 9 does not occur. -/
theorem exec_curRds_of_le_64 (s : State) {n : BitVec 7} (hn : n.toNat ≤ 64) :
    exec (.curRds n) s = s.consumeBits n.toNat (fun c => sext64 (c.peek n.toNat) n.toNat) := by
  simp only [exec, execCurRds, legalWidth, hn, decide_true, if_true]

/-! ### Two's complement -/

/-- The most significant bit of a field is its first stream bit (40_bit_cursor.md R100). -/
theorem testBit_field_top (buf : List Byte) (p n : Nat) :
    (field buf p (n + 1)).testBit n = streamBit buf p := by
  induction n with
  | zero => cases h : streamBit buf p <;> simp [field_one, h]
  | succ n ih =>
    have hhalf : field buf p (n + 2) / 2 = field buf p (n + 1) := by
      have hb := Bool.toNat_lt (streamBit buf (p + (n + 1)))
      rw [field]
      omega
    rw [Nat.testBit_succ, hhalf, ih]

/-- An n-bit number read as two's complement: `v - 2^n` when its top bit is set (00_scope.md R9). -/
theorem toInt_ofNat_of_lt {v n : Nat} (hv : v < 2 ^ n) :
    (BitVec.ofNat n v).toInt = (v : Int) - (if 0 < n ∧ v.testBit (n - 1) = true then 2 ^ n else 0) := by
  have hmsb : (BitVec.ofNat n v).msb = true ↔ 0 < n ∧ v.testBit (n - 1) = true := by
    simp [BitVec.msb_eq_getLsbD_last, BitVec.getLsbD_ofNat]
  simp only [BitVec.toInt_eq_msb_cond, hmsb, BitVec.toNat_ofNat, Nat.mod_eq_of_lt hv]
  split <;> simp

/-- `sext_64` of 00_scope.md R9 is the library's sign extension of the n-bit word. -/
theorem sext64_eq_signExtend {v n : Nat} (hv : v < 2 ^ n) : sext64 v n = (BitVec.ofNat n v).signExtend 64 := by
  simp only [sext64, BitVec.signExtend, toInt_ofNat_of_lt hv]
  split
  · rfl
  · simp

/-- The sign-extended field as an integer: its first stream bit is its sign (40_bit_cursor.md R105). -/
theorem toInt_ofNat_field (buf : List Byte) (p n : Nat) :
    (BitVec.ofNat n (field buf p n)).toInt =
      (field buf p n : Int) - (if 0 < n ∧ streamBit buf p = true then 2 ^ n else 0) := by
  rw [toInt_ofNat_of_lt (field_lt buf p n)]
  cases n with
  | zero => simp
  | succ n => rw [Nat.add_sub_cancel, testBit_field_top]

/-! ### The obligations -/

/-- Settles O5: the port is taken apart by its two cases. -/
theorem stepRunsTheDecodedCommand : Obligations.StepRunsTheDecodedCommand :=
  ⟨fun _ _ _ _ hport hdec => step_of_decode hport hdec, fun _ hport => step_of_no_word hport⟩

/-- Settles O27: the answer is the sign extension of the n-bit field, whose value and range are those of an n-bit
two's-complement word. -/
theorem curRdsReadsASignedField : Obligations.CurRdsReadsASignedField := by
  intro s n hn hrem
  have hval : (sext64 (s.cur.peek n.toNat) n.toNat).toInt =
      (BitVec.ofNat n.toNat (field s.cur.cbuf s.cur.cpos.toNat n.toNat)).toInt := by
    rw [Cursor.peek, sext64_eq_signExtend (field_lt _ _ _), BitVec.toInt_signExtend_of_le hn]
  refine ⟨sext64 (s.cur.peek n.toNat) n.toNat, ?_, ?_, fun _ => ⟨?_, ?_⟩⟩
  · rw [exec_curRds_of_le_64 s hn, State.consumeBits_of_le _ hrem]
  · rw [hval, toInt_ofNat_field]
  · rw [hval]
    exact BitVec.le_toInt _
  · rw [hval]
    exact BitVec.toInt_le

end Sys2Proof.Machine
end

section
/-! PROOFS. Everything a command can do, said once (`exec_cases`), and the statements about the state of 10_state.md. -/

namespace Sys2Proof

open Machine

/-! ### What a performed command does to each unit -/

/-- No cause of 60_exceptions.md R221 holds: the command is performed, not answered with a failure. -/
def Instr.Accepted : Instr → State → Prop
  | .frmPush _, s => s.frm.halted = false ∧ s.frm.eod = false ∧ s.frm.bcnt ≠ s.cfg.bufCap
  | .frmEod, s => s.frm.halted = false ∧ s.frm.eod = false
  | .frmAck _, s => s.frm.frameReady = true
  | .frmRdpay i, s => s.frm.frameReady = true ∧ i.toNat < s.frm.flen.toNat
  | .curAppend _, s => s.cur.clen ≠ s.cfg.curCap
  | .curAttach, s => s.frm.frameReady = true
  | .curRdu n, s => legalWidth n = true ∧ n.toNat ≤ s.cur.remaining
  | .curRds n, s => legalWidth n = true ∧ n.toNat ≤ s.cur.remaining
  | .curSkip n, s => n.toNat ≤ s.cur.remaining
  | _, _ => True

/-- `crc_reg` after a performed command (10_state.md R20, R22). -/
def Instr.crcEffect : Instr → BitVec 24 → BitVec 24
  | .reset, _ => 0
  | .crcInit, _ => 0
  | .crcByte b, c => crcStep c b
  | _, c => c

/-- The framer after a performed command (10_state.md R20). -/
def Instr.frmEffect : Instr → Framer → Framer
  | .reset, _ => Framer.reset
  | .frmReset, _ => Framer.reset
  | .frmPush b, f => f.push b
  | .frmEod, f => f.giveEod
  | .frmAck v, f => f.acknowledge v
  | _, f => f

/-- The cursor after a performed command (10_state.md R20); CUR_ATTACH alone looks at the framer. -/
def Instr.curEffect : Instr → Framer → Cursor → Cursor
  | .reset, _, _ => Cursor.reset
  | .curClear, _, _ => Cursor.reset
  | .curAppend b, _, c => c.append b
  | .curAttach, f, _ => { cbuf := f.payload, cpos := 0 }
  | .curRdu n, _, c => c.advance n.toNat
  | .curRds n, _, c => c.advance n.toNat
  | .curSkip n, _, c => c.advance n.toNat
  | _, _, c => c

/-- The engine after a performed command, before its answer. -/
def Instr.effect (i : Instr) (s : State) : State :=
  { s with crcReg := i.crcEffect s.crcReg, frm := i.frmEffect s.frm, cur := i.curEffect s.frm s.cur }

@[simp] theorem Instr.effect_cfg (i : Instr) (s : State) : (i.effect s).cfg = s.cfg := rfl
@[simp] theorem Instr.effect_port (i : Instr) (s : State) : (i.effect s).port = s.port := rfl
@[simp] theorem Instr.effect_crcReg (i : Instr) (s : State) : (i.effect s).crcReg = i.crcEffect s.crcReg := rfl
@[simp] theorem Instr.effect_frm (i : Instr) (s : State) : (i.effect s).frm = i.frmEffect s.frm := rfl
@[simp] theorem Instr.effect_cur (i : Instr) (s : State) : (i.effect s).cur = i.curEffect s.frm s.cur := rfl

/-! ### Facts about the effects -/

theorem Instr.accepted_of_writesCrc {i : Instr} (h : i.writesCrc = true) (s : State) : i.Accepted s := by
  cases i with
  | reset | crcInit | crcByte _ => trivial
  | _ => cases h

theorem Instr.accepted_of_resetsFramer {i : Instr} (h : i.resetsFramer = true) (s : State) : i.Accepted s := by
  cases i with
  | reset | frmReset => trivial
  | _ => cases h

theorem Instr.crcEffect_of_not_writesCrc {i : Instr} (h : i.writesCrc = false) (c : BitVec 24) :
    i.crcEffect c = c := by
  cases i with
  | reset | crcInit | crcByte _ => cases h
  | _ => rfl

theorem Instr.frmEffect_of_resetsFramer {i : Instr} (h : i.resetsFramer = true) (f : Framer) :
    i.frmEffect f = Framer.reset := by
  cases i with
  | reset | frmReset => rfl
  | _ => cases h

/-- Only a settle or a reset changes the framer (10_state.md R20). -/
theorem Instr.frmEffect_of_not_settle_of_not_reset {i : Instr} (hs : i.runsSettle = false)
    (hr : i.resetsFramer = false) (f : Framer) : i.frmEffect f = f := by
  cases i with
  | frmPush _ | frmEod | frmAck _ => cases hs
  | reset | frmReset => cases hr
  | _ => rfl

theorem Instr.curEffect_cbuf_of_not_writesCbuf {i : Instr} (h : i.writesCbuf = false) (f : Framer) (c : Cursor) :
    (i.curEffect f c).cbuf = c.cbuf := by
  cases i with
  | reset | curClear | curAppend _ | curAttach => cases h
  | _ => rfl

theorem Instr.curEffect_cpos_of_not_writesCpos {i : Instr} (h : i.writesCpos = false) (f : Framer) (c : Cursor) :
    (i.curEffect f c).cpos = c.cpos := by
  cases i with
  | reset | curClear | curAttach | curRdu _ | curRds _ | curSkip _ => cases h
  | _ => rfl

/-- A performed command leaves the framer halted exactly when it is the verdict OK_STOP, or when the framer was halted and
no reset came (10_state.md R25). -/
theorem Instr.frmEffect_halted_iff (i : Instr) (f : Framer) :
    (i.frmEffect f).halted = true ↔ i = .frmAck .okStop ∨ (i.resetsFramer = false ∧ f.halted = true) := by
  cases i with
  | reset | frmReset => simp [frmEffect, Framer.reset, resetsFramer]
  | frmPush b => simp [frmEffect, Framer.push, resetsFramer]
  | frmEod => simp [frmEffect, Framer.giveEod, resetsFramer]
  | frmAck v => cases v <;> simp [frmEffect, Framer.acknowledge, resetsFramer]
  | _ => simp [frmEffect, resetsFramer]

/-- Only FRM_EOD and the framer's resets write `eod` (10_state.md R20, R26). -/
theorem Instr.frmEffect_eod {i : Instr} (hr : i.resetsFramer = false) (he : i ≠ .frmEod) (f : Framer) :
    (i.frmEffect f).eod = f.eod := by
  cases i with
  | reset | frmReset => cases hr
  | frmEod => exact absurd rfl he
  | frmPush b => simp [frmEffect, Framer.push]
  | frmAck v => simp [frmEffect, Framer.acknowledge]
  | _ => rfl

/-- While a frame is held a command other than its verdict or a reset can only put bytes behind it or set `eod`
(10_state.md R24; 42_framer.md R157). -/
theorem Instr.frmEffect_of_held {i : Instr} {f : Framer} (hf : f.frameReady = true) (hr : i.resetsFramer = false)
    (hv : ∀ v, i ≠ .frmAck v) : ∃ bs e, i.frmEffect f = { f with fbuf := f.fbuf ++ bs, eod := e } := by
  cases i with
  | reset | frmReset => cases hr
  | frmAck v => exact absurd rfl (hv v)
  | frmPush b => exact ⟨[b], f.eod, Framer.settle_idle (.inr hf)⟩
  | frmEod =>
    have hidle : f.giveEod = { f with eod := true } := Framer.settle_idle (.inr hf)
    exact ⟨[], true, by simp [frmEffect, hidle]⟩
  | _ => exact ⟨[], f.eod, by simp [frmEffect]⟩

/-- A halted framer accepts no byte, no end of data and, holding no frame, no verdict (10_state.md R25). -/
theorem Instr.not_accepted_of_halted {i : Instr} {s : State} (hinv : s.Inv) (hh : s.frm.halted = true)
    (hs : i.runsSettle = true) : ¬ i.Accepted s := by
  have hnf : s.frm.frameReady = false := hinv.framer.halted hh
  cases i with
  | frmPush _ | frmEod | frmAck _ => simp [Accepted, hh, hnf]
  | _ => cases hs

end Sys2Proof

namespace Sys2Proof.Machine

/-! ### Everything a command can do -/

/-- A read or skip is accepted exactly when its bits remain (40_bit_cursor.md R108). -/
theorem exec_cases_of_consumeBits {i : Instr} {s : State} {n : Nat} {result : Cursor → Data}
    (hexec : exec i s = s.consumeBits n result) (hacc : i.Accepted s ↔ n ≤ s.cur.remaining)
    (heff : i.effect s = { s with cur := s.cur.advance n }) (hdata : i.returnsData = false → result s.cur = 0) :
    (¬ i.Accepted s ∧ ∃ st, st ≠ .ok ∧ exec i s = .next (s.answer st 0)) ∨
    (i.Accepted s ∧ ∃ d, (i.returnsData = false → d = 0) ∧ exec i s = .next ((i.effect s).answer .ok d)) := by
  rw [hexec, hacc, heff]
  obtain ⟨hlt, heq⟩ | ⟨hle, heq⟩ := s.consumeBits_cases n result
  · exact .inl ⟨by omega, .outOfBits, by decide, heq⟩
  · exact .inr ⟨hle, _, hdata, heq⟩

/-- Every command either fails, answered with a status other than OK and data 0 and nothing else changed, or is performed:
its effect is made and it is answered OK, with data only if its rule returns a value (30_encoding.md R78; 60_exceptions.md
R221, R222). -/
theorem exec_cases (i : Instr) (s : State) :
    (¬ i.Accepted s ∧ ∃ st, st ≠ .ok ∧ exec i s = .next (s.answer st 0)) ∨
    (i.Accepted s ∧ ∃ d, (i.returnsData = false → d = 0) ∧ exec i s = .next ((i.effect s).answer .ok d)) := by
  cases i with
  | nop | reset | crcInit | crcByte _ | frmReset | curClear => exact .inr ⟨trivial, 0, fun _ => rfl, rfl⟩
  | crcRd | frmStatus | frmErrcnt | curStatus => exact .inr ⟨trivial, _, nofun, rfl⟩
  | frmPush b =>
    simp only [exec, execFrmPush, Instr.Accepted]
    split_ifs with hh he hf
    · exact .inl ⟨by simp [hh], .halted, by decide, rfl⟩
    · exact .inl ⟨by simp [he], .ended, by decide, rfl⟩
    · exact .inl ⟨by simp [hf], .full, by decide, rfl⟩
    · exact .inr ⟨by simp [hh, he, hf], 0, fun _ => rfl, rfl⟩
  | frmEod =>
    simp only [exec, execFrmEod, Instr.Accepted]
    split_ifs with hh he
    · exact .inl ⟨by simp [hh], .halted, by decide, rfl⟩
    · exact .inl ⟨by simp [he], .ended, by decide, rfl⟩
    · exact .inr ⟨by simp [hh, he], 0, fun _ => rfl, rfl⟩
  | frmAck v =>
    simp only [exec, execFrmAck, Instr.Accepted]
    split_ifs with hf
    · exact .inr ⟨hf, 0, fun _ => rfl, rfl⟩
    · exact .inl ⟨hf, .noFrame, by decide, rfl⟩
  | frmRdpay i =>
    simp only [exec, execFrmRdpay, Instr.Accepted]
    split_ifs with hf hi
    · exact .inl ⟨by omega, .range, by decide, rfl⟩
    · exact .inr ⟨⟨hf, by omega⟩, _, nofun, rfl⟩
    · exact .inl ⟨by simp [hf], .noFrame, by decide, rfl⟩
  | curAppend b =>
    simp only [exec, execCurAppend, Instr.Accepted]
    split_ifs with hf
    · exact .inl ⟨by simp [hf], .full, by decide, rfl⟩
    · exact .inr ⟨hf, 0, fun _ => rfl, rfl⟩
  | curAttach =>
    simp only [exec, execCurAttach, Instr.Accepted]
    split_ifs with hf
    · exact .inr ⟨hf, 0, fun _ => rfl, rfl⟩
    · exact .inl ⟨hf, .noFrame, by decide, rfl⟩
  | curRdu n | curRds n =>
    by_cases hn : legalWidth n = true
    · exact exec_cases_of_consumeBits (if_pos hn) (by simp [Instr.Accepted, hn]) rfl nofun
    · exact .inl ⟨fun h => hn h.1, .illegal, by decide, if_neg hn⟩
  | curSkip n => exact exec_cases_of_consumeBits (result := fun _ => 0) rfl Iff.rfl rfl fun _ => rfl

/-- The engine refuses no command and has no fault (60_exceptions.md R220). -/
theorem exec_total (i : Instr) (s : State) : ∃ t, exec i s = .next t := by
  obtain ⟨-, st, -, h⟩ | ⟨-, d, -, h⟩ := exec_cases i s <;> exact ⟨_, h⟩

/-- `exec_cases` read from the next state. -/
theorem exec_next_cases {i : Instr} {s t : State} (h : exec i s = .next t) :
    (¬ i.Accepted s ∧ ∃ st, st ≠ .ok ∧ t = s.answer st 0) ∨
    (i.Accepted s ∧ ∃ d, (i.returnsData = false → d = 0) ∧ t = (i.effect s).answer .ok d) := by
  obtain ⟨hacc, st, hst, heq⟩ | ⟨hacc, d, hd, heq⟩ := exec_cases i s <;> rw [heq] at h <;> cases h
  · exact .inl ⟨hacc, st, hst, rfl⟩
  · exact .inr ⟨hacc, d, hd, rfl⟩

/-- A command is accepted exactly when it is answered OK. -/
theorem accepted_iff_resp_ok {i : Instr} {s t : State} (h : exec i s = .next t) :
    i.Accepted s ↔ ∃ d, t.resp = some ⟨.ok, d⟩ := by
  obtain ⟨hacc, st, hst, rfl⟩ | ⟨hacc, d, -, rfl⟩ := exec_next_cases h
  · simp [hacc, hst]
  · simp [hacc]

theorem exec_frm_of_accepted {i : Instr} {s t : State} (h : exec i s = .next t) (hacc : i.Accepted s) :
    t.frm = i.frmEffect s.frm := by
  obtain ⟨hn, -⟩ | ⟨-, d, -, rfl⟩ := exec_next_cases h
  · exact absurd hacc hn
  · rfl

/-- The framer after any command: as it was, or with the command's effect. -/
theorem exec_frm_cases {i : Instr} {s t : State} (h : exec i s = .next t) :
    t.frm = s.frm ∨ (i.Accepted s ∧ t.frm = i.frmEffect s.frm) := by
  obtain ⟨-, st, -, rfl⟩ | ⟨hacc, d, -, rfl⟩ := exec_next_cases h
  · exact .inl rfl
  · exact .inr ⟨hacc, rfl⟩

/-- The writers of `crc_reg` never fail, so it always ends at the command's effect. -/
theorem exec_crcReg {i : Instr} {s t : State} (h : exec i s = .next t) : t.crcReg = i.crcEffect s.crcReg := by
  obtain ⟨hn, st, -, rfl⟩ | ⟨-, d, -, rfl⟩ := exec_next_cases h
  · have hw : i.writesCrc = false := by
      by_contra hw
      exact hn (Instr.accepted_of_writesCrc (by simpa using hw) s)
    exact (Instr.crcEffect_of_not_writesCrc hw _).symm
  · rfl

/-! ### The CRC unit and the framer apart -/

/-- A framer command reads and writes nothing but the parameters, the framer and the response: with any value in `crc_reg`
it leaves that value there and does the same otherwise (10_state.md R22). -/
theorem exec_ofFramer_ignores_crcReg {i : Instr} (h : i.ofFramer = true) (s : State) :
    ∃ f r, ∀ c, exec i { s with crcReg := c } = .next { s with crcReg := c, frm := f, resp := some r } := by
  cases i with
  | frmReset => exact ⟨_, _, fun _ => rfl⟩
  | frmStatus => exact ⟨s.frm, ⟨.ok, s.frm.statusWord⟩, fun _ => rfl⟩
  | frmErrcnt => exact ⟨s.frm, ⟨.ok, s.frm.errorCount⟩, fun _ => rfl⟩
  | frmPush b => simp only [exec, execFrmPush]; split_ifs <;> exact ⟨_, _, fun _ => rfl⟩
  | frmEod => simp only [exec, execFrmEod]; split_ifs <;> exact ⟨_, _, fun _ => rfl⟩
  | frmAck v => simp only [exec, execFrmAck]; split_ifs <;> exact ⟨_, _, fun _ => rfl⟩
  | frmRdpay i => simp only [exec, execFrmRdpay]; split_ifs <;> exact ⟨_, _, fun _ => rfl⟩
  | _ => cases h

/-- The 25-bit working value of 41_crc24q.md R130 between two bytes is the 24-bit register of R134. -/
theorem foldl_crcFeed_setWidth {c : BitVec 25} (h : c.getLsbD 24 = false) (bs : List Byte) :
    (bs.foldl crcFeed c).setWidth 24 = bs.foldl crcStep (c.setWidth 24) := by
  induction bs generalizing c with
  | nil => rfl
  | cons b bs ih => rw [List.foldl_cons, List.foldl_cons, ih (crcFeed_bit24 c b), crcStep, setWidth_of_bit24 h]

/-- Bytes fed one at a time from 0 give their CRC (41_crc24q.md R132). -/
theorem foldl_crcStep_zero (bs : List Byte) : bs.foldl crcStep 0 = crc24q bs :=
  (foldl_crcFeed_setWidth (c := 0) (by decide) bs).symm

/-- A command that is a CRC_BYTE or does not write `crc_reg` feeds its bytes, if any, to the register. -/
theorem crcEffect_eq_foldl_crcOperand {i : Instr} (h : i.writesCrc = true → ∃ b, i = .crcByte b) (c : BitVec 24) :
    i.crcEffect c = i.crcOperand.toList.foldl crcStep c := by
  cases i with
  | reset | crcInit => obtain ⟨b, hb⟩ := h rfl; cases hb
  | _ => rfl

theorem issue_cons_of_next {i : Instr} {s t : State} (h : exec i s = .next t) (is : List Instr) :
    s.issue (i :: is) = t.issue is := by
  simp only [State.issue, h]

/-- Commands of which only CRC_BYTEs write `crc_reg` feed it exactly their bytes, in order (10_state.md R22). -/
theorem issue_crcReg (s : State) (is : List Instr) (h : ∀ i ∈ is, i.writesCrc = true → ∃ b, i = .crcByte b) :
    ∃ t, s.issue is = some t ∧ t.crcReg = (is.filterMap Instr.crcOperand).foldl crcStep s.crcReg := by
  induction is generalizing s with
  | nil => exact ⟨s, rfl, rfl⟩
  | cons i is ih =>
    obtain ⟨hi, his⟩ := List.forall_mem_cons.mp h
    obtain ⟨u, hu⟩ := exec_total i s
    obtain ⟨t, ht, hcrc⟩ := ih u his
    refine ⟨t, (issue_cons_of_next hu is).trans ht, ?_⟩
    rw [hcrc, exec_crcReg hu, crcEffect_eq_foldl_crcOperand hi, List.filterMap_cons, ← List.foldl_append]
    cases i.crcOperand <;> rfl

/-! ### Buffers that lose their front -/

/-- Every byte of a buffer's end reads as it does in the whole (10_state.md R27). -/
theorem byteAt_of_suffix {kept buf : List Byte} (h : kept <:+ buf) {k : Nat} (hk : k < kept.length) :
    byteAt kept k = byteAt buf (buf.length - kept.length + k) := by
  have hle := h.length_le
  rw [byteAt_of_lt hk, byteAt_of_lt (by omega), h.getElem]

/-! ### Fields of the status words -/

/-- Above its width a word zero-extended is 0. -/
theorem extractLsb'_setWidth_of_ge {w start : Nat} (len v : Nat) (x : BitVec w) (h : w ≤ start) :
    (x.setWidth v).extractLsb' start len = 0 := by
  apply BitVec.eq_of_getLsbD_eq
  intro i _
  simp [BitVec.getLsbD_of_ge x (start + i) (by omega)]

/-- A word is its own field when nothing stands below it. -/
theorem extractLsb'_eq_self_of_eq_zero {w start : Nat} (x : BitVec w) (h : start = 0) : x.extractLsb' start w = x := by
  rw [h, BitVec.extractLsb'_eq_self]

/-- The layout of 10_state.md R35 below the reserved bits 63:48. -/
theorem Framer.statusWord_fields (f : Framer) :
    f.statusWord.extractLsb' 0 1 = BitVec.ofBool f.sync ∧ f.statusWord.extractLsb' 1 1 = BitVec.ofBool f.frameReady ∧
    f.statusWord.extractLsb' 2 1 = BitVec.ofBool f.halted ∧ f.statusWord.extractLsb' 3 1 = BitVec.ofBool f.eod ∧
    f.statusWord.extractLsb' 4 1 = BitVec.ofBool f.ended ∧ f.statusWord.extractLsb' 5 1 = BitVec.ofBool f.typeValid ∧
    f.statusWord.extractLsb' 6 2 = 0#2 ∧ f.statusWord.extractLsb' 8 12 = f.msgType ∧
    f.statusWord.extractLsb' 20 10 = f.flen ∧ f.statusWord.extractLsb' 30 2 = 0#2 ∧
    f.statusWord.extractLsb' 32 16 = BitVec.ofNat 16 f.bcnt := by
  -- The widths stay unevaluated sums, as the concatenation's type has them: its lemmas match nothing else.
  refine ⟨?_, ?_, ?_, ?_, ?_, ?_, ?_, ?_, ?_, ?_, ?_⟩ <;>
    simp (disch := decide) only [Framer.statusWord, BitVec.extractLsb'_setWidth_of_le, BitVec.extractLsb'_append_eq_of_le,
      BitVec.extractLsb'_append_eq_of_add_le, extractLsb'_eq_self_of_eq_zero, -Nat.reduceAdd]

/-- A buffer count within a legal capacity fits its 16-bit field. -/
theorem toNat_ofNat_of_le {n cap : Nat} (h : n ≤ cap) (hcap : cap ≤ 65535) : (BitVec.ofNat 16 n).toNat = n := by
  rw [BitVec.toNat_ofNat, Nat.mod_eq_of_lt (by omega)]

/-! ### Reset -/

/-- The reset framer satisfies 42_framer.md R159. -/
theorem framer_reset_inv : Framer.reset.Inv :=
  ⟨by decide, by decide, by decide, by decide, by decide, by decide, by decide⟩

/-- 42_framer.md R159 right after power-on. -/
theorem resetWith_inv {cfg : Config} (h : cfg.Legal) : (State.resetWith cfg).Inv :=
  ⟨h, memory_wf_resetWith cfg, Nat.zero_le _, framer_reset_inv⟩

/-- Units at their reset values show the table of 10_state.md R34; `in_ready_out` is 1 since BUF_CAP is not 0. -/
theorem hasResetValues_of_units {s : State} (hcfg : s.cfg.Legal) (hcrc : s.crcReg = 0) (hfrm : s.frm = Framer.reset)
    (hcur : s.cur = Cursor.reset) : HasResetValues s := by
  obtain ⟨hcap, -⟩ := hcfg
  have hroom : 0 < s.cfg.bufCap := by omega
  simp [HasResetValues, State.frameReadyOut, State.inReadyOut, hcrc, hfrm, hcur, Framer.reset, Cursor.reset,
    Framer.bcnt, hroom]

/-! ### The obligations -/

/-- Settles O14: by the effect of each command on each unit. -/
theorem eachCommandWritesOnlyItsState : Obligations.EachCommandWritesOnlyItsState := by
  intro i s t h
  obtain ⟨-, st, -, rfl⟩ | ⟨-, d, -, rfl⟩ := exec_next_cases h
  · simp [Framer.byte, Cursor.byte]
  · refine ⟨rfl, rfl, fun hw => ?_, fun hs hr => ?_, fun hr hv => ?_, fun hr he => ?_, fun hw => ?_, fun hw => ?_⟩
    · exact Instr.crcEffect_of_not_writesCrc hw s.crcReg
    · simp [Instr.frmEffect_of_not_settle_of_not_reset hs hr]
    · exact Bool.eq_iff_iff.mpr (by simpa [hr, hv] using Instr.frmEffect_halted_iff i s.frm)
    · exact Instr.frmEffect_eod hr he s.frm
    · simp [Cursor.byte, Cursor.clen, Instr.curEffect_cbuf_of_not_writesCbuf hw]
    · exact Instr.curEffect_cpos_of_not_writesCpos hw s.frm s.cur

/-- Settles O16: each field of the concatenation is read at its offset. -/
theorem frmStatusWordHasItsFields : Obligations.FrmStatusWordHasItsFields := by
  intro s
  obtain ⟨hsync, hready, hhalted, heod, hended, hvalid, hres1, htype, hflen, hres2, hcount⟩ := s.frm.statusWord_fields
  refine ⟨s.frm.statusWord, rfl, hsync, hready, hhalted, heod, hended, hvalid, hres1, ?_, hflen, hres2, hcount,
    extractLsb'_setWidth_of_ge _ _ _ (by decide), fun hinv => ?_⟩
  · simp [htype, Framer.msgType, Framer.typeValid]
  · obtain ⟨-, hcap, -⟩ := hinv.legal
    rw [hcount, toNat_ofNat_of_le hinv.memory.1 hcap]

/-- Settles O17: each field of the concatenation is read at its offset. -/
theorem curStatusWordHasItsFields : Obligations.CurStatusWordHasItsFields := by
  intro s
  have hlen : s.cur.statusWord.extractLsb' 16 16 = BitVec.ofNat 16 s.cur.clen := by
    rw [Cursor.statusWord, BitVec.extractLsb'_setWidth_of_le (by decide), BitVec.extractLsb'_append_eq_left]
  refine ⟨s.cur.statusWord, rfl, ?_, hlen, extractLsb'_setWidth_of_ge _ _ _ (by decide), fun hinv => ?_⟩
  · rw [Cursor.statusWord, BitVec.extractLsb'_setWidth_of_le (by decide), BitVec.extractLsb'_append_eq_right]
  · obtain ⟨-, -, -, hcap⟩ := hinv.legal
    rw [hlen, toNat_ofNat_of_le hinv.memory.2 (by omega)]

/-- Settles O18: the register is zero-extended. -/
theorem crcRdAnswersTheRegister : Obligations.CrcRdAnswersTheRegister := by
  intro s
  refine ⟨crcWord s.crcReg, rfl, ?_, extractLsb'_setWidth_of_ge _ _ _ (by decide)⟩
  rw [crcWord, BitVec.extractLsb'_setWidth_of_le (by decide), BitVec.extractLsb'_eq_self]

/-- Settles O20: within the capacity "not full" is "below the capacity", so the output is FRM_PUSH's acceptance. -/
theorem outputSignalsShowTheState : Obligations.OutputSignalsShowTheState := by
  intro s
  have hready : s.inReadyOut = true ↔ s.frm.halted = false ∧ s.frm.eod = false ∧ s.frm.bcnt < s.cfg.bufCap := by
    simp [State.inReadyOut, and_assoc]
  refine ⟨rfl, hready, fun hwf b => ?_⟩
  have hacc : s.inReadyOut = true ↔ (Instr.frmPush b).Accepted s := by
    rw [hready, Instr.Accepted, hwf.1.lt_iff_ne]
  rw [hacc]
  obtain ⟨hn, st, hst, h⟩ | ⟨hy, d, hd, h⟩ := exec_cases (.frmPush b) s
  · simp [hn, h, hst]
  · simp [hy, h, hd rfl]

/-- Settles O25: by induction over the commands for the bytes fed, and by the framer's commands not seeing `crc_reg`. -/
theorem crcRegisterHoldsTheCrcOfTheBytesFed : Obligations.CrcRegisterHoldsTheCrcOfTheBytesFed := by
  refine ⟨fun s is his => ?_, fun i s t c hi h => ?_⟩
  · obtain ⟨t, ht, hcrc⟩ := issue_crcReg ({ s with crcReg := 0 }.answer .ok 0) is his
    exact ⟨t, ht, hcrc.trans (foldl_crcStep_zero _)⟩
  · obtain ⟨f, r, hall⟩ := exec_ofFramer_ignores_crcReg hi s
    obtain rfl : { s with frm := f, resp := some r } = t := by simpa [hall s.crcReg] using h
    exact ⟨rfl, hall c⟩

/-- Settles O45: FBUF after a settle is a suffix of FBUF before it. -/
theorem fbufLosesOnlyItsFront : Obligations.FbufLosesOnlyItsFront := by
  intro i s t hi h hok before
  have hfrm := exec_frm_of_accepted h ((accepted_iff_resp_ok h).mpr ⟨0, hok⟩)
  have hsuffix : t.frm.fbuf <:+ before := by
    rw [hfrm]
    cases i with
    | frmPush b => exact Framer.settle_suffix (s.frm.append b)
    | frmEod => exact Framer.settle_suffix { s.frm with eod := true }
    | frmAck v => exact (Framer.settle_suffix (s.frm.consume v)).trans (List.drop_suffix _ _)
    | _ => cases hi
  exact ⟨hsuffix.length_le, fun k hk => byteAt_of_suffix hsuffix hk⟩

/-- Settles O46: bytes can only come behind the held frame. -/
theorem heldFrameStaysUntilAcknowledged : Obligations.HeldFrameStaysUntilAcknowledged := by
  intro i s t hinv hheld h hr hv
  obtain hsame | ⟨-, heff⟩ := exec_frm_cases h
  · simp [hsame, hheld]
  · obtain ⟨bs, e, hbs⟩ := Instr.frmEffect_of_held hheld hr hv
    obtain ⟨-, -, hwhole, -⟩ := hinv.framer.held hheld
    rw [heff, hbs]
    exact ⟨hheld, rfl, rfl, rfl, fun k hk => byteAt_append_left bs (hk.trans_le hwhole)⟩

/-- Settles O47: a halted framer accepts no command that settles, and `halted` after a performed command is known. -/
theorem haltedFramerIsFrozen : Obligations.HaltedFramerIsFrozen := by
  intro i s t hinv h
  refine ⟨fun hh hr => ?_, fun _ hr => ?_, fun hh ht => ?_, fun hf hi => ?_⟩
  · obtain hsame | ⟨hacc, heff⟩ := exec_frm_cases h
    · exact hsame
    · have hs : i.runsSettle = false := by
        by_contra hs
        exact Instr.not_accepted_of_halted hinv hh (by simpa using hs) hacc
      rw [heff, Instr.frmEffect_of_not_settle_of_not_reset hs hr]
  · rw [exec_frm_of_accepted h (Instr.accepted_of_resetsFramer hr s), Instr.frmEffect_of_resetsFramer hr]
    rfl
  · obtain hsame | ⟨-, heff⟩ := exec_frm_cases h
    · simp [hsame, hh] at ht
    · simpa [heff, Instr.frmEffect_halted_iff, hh] using ht
  · subst hi
    rw [exec_frm_of_accepted h hf, Instr.frmEffect_halted_iff]
    exact .inl rfl

/-- Settles O10: power-on reset and RESET both put every unit at its reset value. -/
theorem resetGivesEveryResetValue : Obligations.ResetGivesEveryResetValue :=
  ⟨hasResetValues_of_units (by decide) rfl rfl rfl,
    fun _ hcfg => ⟨_, rfl, hasResetValues_of_units hcfg rfl rfl rfl⟩⟩

/-- Settles O50: the default capacities are legal, and the reset framer meets its invariants. -/
theorem invariantsHoldAtReset : Obligations.InvariantsHoldAtReset :=
  ⟨resetWith_inv (by decide), fun _ hcfg => resetWith_inv hcfg⟩

end Sys2Proof.Machine
end

section
/-! PROOFS. Commands issued twice, and cursor reads of whole bytes: the statements about 20_memory.md. -/

namespace Sys2Proof.Machine

/-! ### A command issued twice -/

/-- No command looks at the response before it: the answer is always replaced (30_encoding.md R78). -/
theorem exec_answer (i : Instr) (s : State) (st : Status) (d : Data) : exec i (s.answer st d) = exec i s := by
  cases i <;> rfl

/-- A reading command has no effect but its answer (20_memory.md R60). -/
theorem effect_of_readOnly {i : Instr} (h : i.readOnly = true) (s : State) : i.effect s = s := by
  cases i with
  | nop | crcRd | frmStatus | frmErrcnt | frmRdpay _ | curStatus => rfl
  | _ => cases h

/-- A command that does the same after its own effect as before it is idempotent, its answer included. -/
theorem exec_again_of_exec_effect {i : Instr} {s t : State} (heff : exec i (i.effect s) = exec i s)
    (h : exec i s = .next t) : exec i t = .next t := by
  have hagain : exec i t = exec i s := by
    obtain ⟨-, st, -, rfl⟩ | ⟨-, d, -, rfl⟩ := exec_next_cases h
    · exact exec_answer i s st 0
    · exact (exec_answer i (i.effect s) .ok d).trans heff
  rw [hagain, h]

theorem exec_next_of_readOnly {i : Instr} {s t : State} (hi : i.readOnly = true) (h : exec i s = .next t) :
    ∃ r, t = { s with resp := some r } := by
  obtain ⟨-, st, -, rfl⟩ | ⟨-, d, -, rfl⟩ := exec_next_cases h
  · exact ⟨⟨st, 0⟩, rfl⟩
  · exact ⟨⟨.ok, d⟩, by rw [effect_of_readOnly hi, State.answer]⟩

/-- 60_exceptions.md R225: after end of data a framer that is not halted answers ENDED. -/
theorem exec_frmEod_of_eod {s : State} (hh : s.frm.halted = false) (he : s.frm.eod = true) :
    exec .frmEod s = .next (s.answer .ended 0) := by
  simp [exec, execFrmEod, hh, he, State.raise_eq]

/-! ### Fields of whole bytes -/

/-- Two fields end to end are one: the first is the more significant (40_bit_cursor.md R104). -/
theorem field_add (buf : List Byte) (p m n : Nat) :
    field buf p (m + n) = field buf p m * 2 ^ n + field buf (p + m) n := by
  induction n with
  | zero => simp [field]
  | succ n ih =>
    rw [← Nat.add_assoc, field, field, ih, Nat.add_assoc p m n]
    ring

/-- The first n bits of a byte, most significant first, are its quotient by 2^(8-n) (00_scope.md R8). -/
theorem field_byte_prefix (buf : List Byte) (j : Nat) {n : Nat} (hn : n ≤ 8) :
    field buf (8 * j) n = (byteAt buf j).toNat / 2 ^ (8 - n) := by
  induction n with
  | zero => exact (Nat.div_eq_of_lt (byteAt buf j).isLt).symm
  | succ n ih =>
    have hbyte : (8 * j + n) / 8 = j := by omega
    have hbit : 7 - (8 * j + n) % 8 = 7 - n := by omega
    have hexp : 8 - n = 7 - n + 1 := by omega
    have hstep : 8 - (n + 1) = 7 - n := by omega
    rw [field, ih (by omega), streamBit, hbyte, hbit, BitVec.getLsbD, Nat.toNat_testBit, hexp, hstep,
      Nat.pow_succ, ← Nat.div_div_eq_div_mul, Nat.div_add_mod]

/-- A byte's eight stream bits are the byte (20_memory.md R52). -/
theorem field_byte (buf : List Byte) (j : Nat) : field buf (8 * j) 8 = (byteAt buf j).toNat := by
  rw [field_byte_prefix buf j le_rfl, Nat.sub_self, Nat.pow_zero, Nat.div_one]

/-- Two bytes in a row are read big-endian (20_memory.md R51, R52). -/
theorem field_two_bytes (buf : List Byte) (j : Nat) :
    field buf (8 * j) 16 = (byteAt buf j ++ byteAt buf (j + 1)).toNat := by
  rw [field_add buf (8 * j) 8 8, ← Nat.mul_succ, field_byte, field_byte, BitVec.toNat_append,
    ← Nat.shiftLeft_add_eq_or_of_lt (byteAt buf (j + 1)).isLt, Nat.shiftLeft_eq]

/-- 40_bit_cursor.md R104: at a legal width whose bits remain, CUR_RDU answers the zero-extended field. -/
theorem exec_curRdu_of_le (s : State) {n : BitVec 7} (hn : n.toNat ≤ 64) (hrem : n.toNat ≤ s.cur.remaining) :
    exec (.curRdu n) s = .next
      ({ s with cur := { s.cur with cpos := BitVec.ofNat 16 (s.cur.cpos.toNat + n.toNat) } }.answer .ok
        (zext64 (s.cur.peek n.toNat))) := by
  simp only [exec, execCurRdu, legalWidth, hn, decide_true, if_true]
  exact State.consumeBits_of_le (fun c => zext64 (c.peek n.toNat)) hrem

/-- A field that is the value of a word w is answered as w. -/
theorem exec_curRdu_resp_of_field {k : Nat} {s : State} {n : BitVec 7} {w : BitVec k} (hn : n.toNat ≤ 64)
    (hrem : n.toNat ≤ s.cur.remaining) (hw : field s.cur.cbuf s.cur.cpos.toNat n.toNat = w.toNat) :
    ∃ t, exec (.curRdu n) s = .next t ∧ t.resp = some ⟨.ok, w.setWidth 64⟩ := by
  refine ⟨_, exec_curRdu_of_le s hn hrem, ?_⟩
  rw [State.answer_resp, Cursor.peek, hw, zext64, BitVec.ofNat_toNat]

/-! ### The obligations -/

/-- Settles O15: a command is issued again on the state its effect left, and the response there plays no part. -/
theorem readsAndResetsAreIdempotent : Obligations.ReadsAndResetsAreIdempotent := by
  refine ⟨fun i s t hi h => ⟨exec_next_of_readOnly hi h, ?_⟩, fun i s t hi h => ?_, fun s t hh he h => ?_⟩
  · exact exec_again_of_exec_effect (congrArg (exec i) (effect_of_readOnly hi s)) h
  · have heff : exec i (i.effect s) = exec i s := by
      obtain rfl | rfl | rfl | rfl := hi <;> rfl
    exact exec_again_of_exec_effect heff h
  · have hfrm : t.frm = s.frm.giveEod := exec_frm_of_accepted h ⟨hh, he⟩
    exact exec_frmEod_of_eod (by simp [hfrm, Framer.giveEod, hh]) (by simp [hfrm, Framer.giveEod])

/-- Settles O31: the field at a byte boundary is the byte, or the two bytes, there. -/
theorem alignedReadsAnswerWholeBytes : Obligations.AlignedReadsAnswerWholeBytes := by
  intro s j hpos
  have hrem : s.cur.remaining = 8 * (s.cur.clen - j) := by
    rw [Cursor.remaining, hpos, Nat.mul_sub]
  constructor <;> intro hj
  · refine exec_curRdu_resp_of_field (by decide) (?_ : 8 ≤ s.cur.remaining) ?_
    · omega
    · rw [hpos]
      exact field_byte s.cur.cbuf j
  · refine exec_curRdu_resp_of_field (by decide) (?_ : 16 ≤ s.cur.remaining) ?_
    · omega
    · rw [hpos]
      exact field_two_bytes s.cur.cbuf j

end Sys2Proof.Machine
end

section
/-! PROOFS. What decoding a word does, row by row of the opcode map: the statements about 30_encoding.md. -/

namespace Sys2Proof

open Machine

/-! ### The operand area of a word -/

/-- A word is a command's word exactly when its OP and its operand area are the command's (30_encoding.md R70, R73). -/
theorem encode_eq_iff {i : Instr} {w : Word} :
    encode i = w ↔ opcodeField w = i.opcode ∧ w.extractLsb' 0 26 = i.operandArea := by
  refine ⟨fun h => h ▸ Laws.EncodedOpcode.word_halves i.opcode i.operandArea, fun ⟨hop, harea⟩ => ?_⟩
  rw [encode, ← hop, ← harea]
  exact (BitVec.extractLsb'_append_extractLsb'_eq_extractLsb' rfl).trans BitVec.extractLsb'_eq_self

/-- The operand area is a field zero-extended exactly when the bits above the field are 0 and the field stands below them
(30_encoding.md R71, R72). -/
theorem operandArea_eq_setWidth_iff {fw : Nat} (hfw : fw ≤ 26) (w : Word) (x : BitVec fw) :
    w.extractLsb' 0 26 = x.setWidth 26 ↔ reservedClear fw w = true ∧ operandField fw w = x := by
  simp only [reservedClear, operandField, beq_iff_eq]
  constructor
  · intro h
    have hbit (k : Nat) (hk : k < 26) : w.getLsbD k = x.getLsbD k := by
      simpa [hk] using congrArg (BitVec.getLsbD · k) h
    refine ⟨BitVec.eq_of_getLsbD_eq fun k hk => ?_, BitVec.eq_of_getLsbD_eq fun k hk => ?_⟩
    · simp [hk, hbit (fw + k) (by omega)]
    · simp [hk, hbit k (by omega)]
  · rintro ⟨hclear, rfl⟩
    refine BitVec.eq_of_getLsbD_eq fun k hk => ?_
    by_cases hlow : k < fw
    · simp [hk, hlow]
    · have hzero : w.getLsbD (fw + (k - fw)) = false := by
        simpa [show k - fw < 26 - fw by omega] using congrArg (BitVec.getLsbD · (k - fw)) hclear
      rw [Nat.add_sub_cancel' (by omega)] at hzero
      simp [hk, hlow, hzero]

/-! ### Rows of the opcode map -/

/-- What a row of the opcode map says of the words with its OP: the width of their field and the command each field value
gives (30_encoding.md R73, R75). -/
structure OperandFormat where
  width : Nat
  operand : BitVec width → Except DecodeError Instr

/-- The part of R75 after the opcode map. -/
def OperandFormat.decode (fmt : OperandFormat) (w : Word) : Except DecodeError Instr :=
  if reservedClear fmt.width w then fmt.operand (operandField fmt.width w) else .error .reservedBit

/-- The field of format V (R72, R74 item 3). -/
def verdictOperand (c : BitVec 2) : Except DecodeError Instr :=
  match decodeVerdict c with
  | some v => .ok (.frmAck v)
  | none => .error .illegalVerdict

/-- The field of format W (R72, R74 item 4). -/
def widthOperand (mk : BitVec 7 → Instr) (n : BitVec 7) : Except DecodeError Instr :=
  if legalWidth n then .ok (mk n) else .error .illegalWidth

/-- The row of a command in the opcode map. -/
def Instr.format : Instr → OperandFormat
  | .crcByte _ => ⟨8, fun b => .ok (.crcByte b)⟩
  | .frmPush _ => ⟨8, fun b => .ok (.frmPush b)⟩
  | .curAppend _ => ⟨8, fun b => .ok (.curAppend b)⟩
  | .frmAck _ => ⟨2, verdictOperand⟩
  | .frmRdpay _ => ⟨10, fun idx => .ok (.frmRdpay idx)⟩
  | .curRdu _ => ⟨7, widthOperand .curRdu⟩
  | .curRds _ => ⟨7, widthOperand .curRds⟩
  | .curSkip _ => ⟨14, fun sn => .ok (.curSkip sn)⟩
  | i => ⟨0, fun _ => .ok i⟩

/-- One command of each row. -/
def rowRepresentatives : List Instr :=
  [.nop, .reset, .crcInit, .crcByte 0, .crcRd, .frmReset, .frmPush 0, .frmEod, .frmAck .ok, .frmStatus, .frmErrcnt,
    .frmRdpay 0, .curClear, .curAppend 0, .curAttach, .curRdu 0, .curRds 0, .curSkip 0, .curStatus]

/-- A word with a command's OP is decoded as the command's row says. -/
theorem decode_of_opcode {w : Word} {i : Instr} (h : opcodeField w = i.opcode) : decode w = i.format.decode w := by
  unfold decode
  rw [h]
  cases i <;> rfl

theorem decode_of_unassigned {w : Word} (h : (opcodeField w).toNat ∉ opcodesAll) :
    decode w = .error .unknownOpcode := by
  unfold decode
  split
  case h_20 => rfl
  all_goals next hop => exact absurd (hop ▸ by decide) h

theorem exists_opcode_of_assigned {op : BitVec 6} (h : op.toNat ∈ opcodesAll) : ∃ i : Instr, op = i.opcode := by
  have hrow : ∀ op : BitVec 6, op.toNat ∈ opcodesAll → ∃ i ∈ rowRepresentatives, op = i.opcode := by decide
  obtain ⟨i, -, hi⟩ := hrow op h
  exact ⟨i, hi⟩

/-- Everything decoding can do: OP is unassigned, or it is that of a row, which decodes the rest (30_encoding.md R75). -/
theorem decode_cases (w : Word) :
    ((opcodeField w).toNat ∉ opcodesAll ∧ decode w = .error .unknownOpcode) ∨
    ∃ i : Instr, opcodeField w = i.opcode ∧ decode w = i.format.decode w := by
  by_cases h : (opcodeField w).toNat ∈ opcodesAll
  · obtain ⟨i, hi⟩ := exists_opcode_of_assigned h
    exact .inr ⟨i, hi, decode_of_opcode hi⟩
  · exact .inl ⟨h, decode_of_unassigned h⟩

/-! ### What a row decodes -/

theorem Instr.format_width_le (i : Instr) : i.format.width ≤ 26 := by
  cases i <;> simp [format]

/-- Decoding succeeds exactly on an operand area that is a field zero-extended, with a value the row accepts. -/
theorem OperandFormat.decode_eq_ok_iff {fmt : OperandFormat} (hfw : fmt.width ≤ 26) {w : Word} {j : Instr} :
    fmt.decode w = .ok j ↔ ∃ x, w.extractLsb' 0 26 = x.setWidth 26 ∧ fmt.operand x = .ok j := by
  simp only [OperandFormat.decode, operandArea_eq_setWidth_iff hfw]
  split <;> simp [*]

/-- Decoding fails exactly on a reserved bit or a value the row does not accept. -/
theorem OperandFormat.decode_error_iff {fmt : OperandFormat} {w : Word} :
    (∃ e, fmt.decode w = .error e) ↔ w.extractLsb' fmt.width (26 - fmt.width) ≠ 0 ∨
      ∃ e, fmt.operand (operandField fmt.width w) = .error e := by
  simp only [OperandFormat.decode, reservedClear, beq_iff_eq]
  split
  · next hclear => simp [hclear]
  · next hreserved => exact iff_of_true ⟨_, rfl⟩ (.inl hreserved)

theorem verdictOperand_eq_ok_iff {c : BitVec 2} {j : Instr} :
    verdictOperand c = .ok j ↔ ∃ v : Verdict, v.code = c ∧ .frmAck v = j := by
  unfold verdictOperand
  split
  · next v hv =>
    refine ⟨fun h => ⟨v, code_of_decodeVerdict hv, by simpa using h⟩, ?_⟩
    rintro ⟨u, rfl, rfl⟩
    simpa using hv.symm
  · next hnone =>
    refine ⟨nofun, fun ⟨v, hv, _⟩ => ?_⟩
    simp [← hv] at hnone

theorem verdictOperand_error_iff {c : BitVec 2} : (∃ e, verdictOperand c = .error e) ↔ c = 3 := by
  rw [← decodeVerdict_eq_none, verdictOperand]
  split <;> simp [*]

theorem widthOperand_error_iff {mk : BitVec 7 → Instr} {n : BitVec 7} :
    (∃ e, widthOperand mk n = .error e) ↔ 64 < n.toNat := by
  simp only [widthOperand, legalWidth]
  split <;> simp_all

/-- The commands a row gives are its own, with the field as their operand (30_encoding.md R72, R73). -/
theorem Instr.wf_opcode_operandArea_of_operand {i j : Instr} {x : BitVec i.format.width}
    (h : i.format.operand x = .ok j) : j.wf = true ∧ j.opcode = i.opcode ∧ j.operandArea = x.setWidth 26 := by
  cases i with
  | frmAck v =>
    obtain ⟨v, rfl, rfl⟩ := verdictOperand_eq_ok_iff.mp h
    exact ⟨rfl, rfl, rfl⟩
  | curRdu n | curRds n =>
    simp only [format, widthOperand] at h
    split at h
    · cases h
      exact ⟨‹_›, rfl, rfl⟩
    · cases h
  | crcByte b | frmPush b | curAppend b | frmRdpay idx | curSkip sn =>
    cases h
    exact ⟨rfl, rfl, rfl⟩
  | _ =>
    cases h
    obtain rfl : x = 0#0 := BitVec.of_length_zero
    exact ⟨rfl, rfl, rfl⟩

/-- A well-formed command is given by its own row, from its own operand. -/
theorem Instr.exists_operand_of_wf {i : Instr} (h : i.wf = true) :
    ∃ x, i.operandArea = x.setWidth 26 ∧ i.format.operand x = .ok i := by
  cases i with
  | frmAck v => exact ⟨v.code, rfl, verdictOperand_eq_ok_iff.mpr ⟨v, rfl, rfl⟩⟩
  | curRdu n | curRds n => exact ⟨n, rfl, if_pos h⟩
  | crcByte x | frmPush x | curAppend x | frmRdpay x | curSkip x => exact ⟨x, rfl, rfl⟩
  | _ => exact ⟨0, rfl, rfl⟩

/-- 30_encoding.md R74 items 2 to 4, row by row. -/
theorem format_decode_error_iff_illegalWord {w : Word} {i : Instr} (h : opcodeField w = i.opcode) :
    (∃ e, i.format.decode w = .error e) ↔ IllegalWord w := by
  have hop : (w.extractLsb' 26 6).toNat = i.opcode.toNat := congrArg BitVec.toNat h
  rw [OperandFormat.decode_error_iff]
  simp only [IllegalWord, hop, opcodesAll, opcodesZ, opcodesB, opcodesV, opcodesI, opcodesW, opcodesS]
  cases i with
  | frmAck v => simp [Instr.opcode, Instr.format, operandField, verdictOperand_error_iff]
  | curRdu n | curRds n => simp [Instr.opcode, Instr.format, operandField, widthOperand_error_iff]
  | _ => simp [Instr.opcode, Instr.format]

end Sys2Proof

namespace Sys2Proof.Machine

/-- 30_encoding.md R74: a word fails to decode exactly when it is illegal. -/
theorem decode_error_iff_illegalWord (w : Word) : (∃ e, decode w = .error e) ↔ IllegalWord w := by
  obtain ⟨hun, hdec⟩ | ⟨i, hop, hdec⟩ := decode_cases w
  · rw [hdec]
    exact iff_of_true ⟨_, rfl⟩ (.inl hun)
  · rw [hdec, format_decode_error_iff_illegalWord hop]

/-- 30_encoding.md R74: an illegal word at the head of the port is answered (ILLEGAL, 0). -/
theorem step_of_decode_error {s : State} {w : Word} {rest : List Word} {e : DecodeError} (hport : s.port = w :: rest)
    (hdec : decode w = .error e) : step s = .next ({ s with port := rest }.answer .illegal 0) := by
  simp only [step, State.takeCommand_cons hport, hdec, State.raise_eq]

/-! ### The obligations -/

/-- Settles O1: a well-formed command's operand area is its row's field, which gives the command back. -/
theorem encodedCommandDecodesToItself : Obligations.EncodedCommandDecodesToItself := by
  intro i hwf
  obtain ⟨hop, harea⟩ := encode_eq_iff.mp (rfl : encode i = encode i)
  obtain ⟨x, hx, hoperand⟩ := Instr.exists_operand_of_wf hwf
  rw [decode_of_opcode hop, OperandFormat.decode_eq_ok_iff i.format_width_le]
  exact ⟨x, harea.trans hx, hoperand⟩

/-- Settles O2: the row that decodes the word gives a command with the word's OP and operand area. -/
theorem decodedWordIsTheCommandsWord : Obligations.DecodedWordIsTheCommandsWord := by
  intro w j h
  obtain ⟨-, hdec⟩ | ⟨i, hop, hdec⟩ := decode_cases w
  · simp [hdec] at h
  · rw [hdec, OperandFormat.decode_eq_ok_iff i.format_width_le] at h
    obtain ⟨x, hx, hoperand⟩ := h
    obtain ⟨hwf, hopj, hareaj⟩ := Instr.wf_opcode_operandArea_of_operand hoperand
    exact ⟨hwf, encode_eq_iff.mpr ⟨hop.trans hopj.symm, hx.trans hareaj.symm⟩⟩

/-- Settles O3: each word is evaluated. -/
theorem wordsWrittenInTheSpecDecode : Obligations.WordsWrittenInTheSpecDecode :=
  ⟨rfl, rfl, rfl, rfl, rfl, rfl, rfl, rfl, rfl⟩

/-- Settles O4: an illegal word does not decode, and what does not decode is answered ILLEGAL. -/
theorem illegalWordsChangeNothing : Obligations.IllegalWordsChangeNothing := by
  refine ⟨decode_error_iff_illegalWord, fun s w rest hport hill => ?_, by decide⟩
  obtain ⟨e, he⟩ := (decode_error_iff_illegalWord w).mpr hill
  exact step_of_decode_error hport he

/-- Settles O6: a word that does not decode is answered with data 0, and a command's answer is known from `exec_cases`. -/
theorem everyWordGetsOneResponse : Obligations.EveryWordGetsOneResponse := by
  intro s w rest hport
  cases hdec : decode w with
  | error e => exact ⟨_, _, step_of_decode_error hport hdec, rfl, rfl, fun h => absurd rfl h⟩
  | ok i =>
    rw [step_of_decode hport hdec]
    obtain ⟨-, st, -, h⟩ | ⟨-, d, hd, h⟩ := exec_cases i { s with port := rest }
    · exact ⟨_, _, h, rfl, rfl, fun h0 => absurd rfl h0⟩
    · exact ⟨_, _, h, rfl, rfl, fun hne => ⟨rfl, i, rfl, by simpa using mt hd hne⟩⟩

end Sys2Proof.Machine
end

section
/-! PROOFS. The bit cursor's reads, skips and buffer writes: the statements about 40_bit_cursor.md. -/

namespace Sys2Proof.Machine

/-! ### Fields as sums, and as parts of a longer buffer -/

/-- 40_bit_cursor.md R100: the field is the sum of its stream bits, the first with the highest weight. -/
theorem field_eq_sum (buf : List Byte) (p n : Nat) :
    field buf p n = ∑ i ∈ Finset.range n, (streamBit buf (p + i)).toNat * 2 ^ (n - 1 - i) := by
  induction n with
  | zero => rfl
  | succ n ih =>
    have hweight : ∀ i ∈ Finset.range n, 2 * ((streamBit buf (p + i)).toNat * 2 ^ (n - 1 - i)) =
        (streamBit buf (p + i)).toNat * 2 ^ (n + 1 - 1 - i) := by
      intro i hi
      have hlt := Finset.mem_range.mp hi
      have hexp : n + 1 - 1 - i = n - 1 - i + 1 := by omega
      rw [hexp]
      ring
    rw [field, ih, Finset.mul_sum, Finset.sum_congr rfl hweight, Finset.sum_range_succ]
    simp

/-- The bits that remain stay when bytes are appended (10_state.md R31). -/
theorem Cursor.remaining_le_append (c : Cursor) (ext : List Byte) :
    c.remaining ≤ { c with cbuf := c.cbuf ++ ext }.remaining := by
  simp only [Cursor.remaining, Cursor.clen, List.length_append]
  omega

/-- 40_bit_cursor.md R109: the next n bits, when they remain, do not see what is appended. A field of no bits sees nothing
at all, wherever cpos stands. -/
theorem Cursor.peek_append_left {c : Cursor} {n : Nat} (ext : List Byte) (h : n ≤ c.remaining) :
    { c with cbuf := c.cbuf ++ ext }.peek n = c.peek n := by
  cases n with
  | zero => rfl
  | succ n =>
    rw [Cursor.remaining] at h
    exact field_append_left ext (show c.cpos.toNat + (n + 1) ≤ 8 * c.clen by omega)

/-- Up to 64 bits the answer of CUR_RDU has the value of the field (40_bit_cursor.md R104). -/
theorem Cursor.zext64_peek_toNat (c : Cursor) {n : Nat} (hn : n ≤ 64) : (zext64 (c.peek n)).toNat = c.peek n :=
  zext64_toNat (field_lt c.cbuf c.cpos.toNat n) hn

/-! ### Reads and skips as one operation -/

/-- 40_bit_cursor.md R104 to R106: a well-formed read or skip of n bits consumes n bits, with a result that what is appended
to the buffer does not change. -/
theorem exec_eq_consumeBits {i : Instr} {n : Nat} (hwf : i.wf = true) (hn : i.bitCount = some n) :
    ∃ result : Cursor → Data, (∀ s, exec i s = s.consumeBits n result) ∧
      ∀ c ext, n ≤ c.remaining → result { c with cbuf := c.cbuf ++ ext } = result c := by
  cases i with
  | curRdu k =>
    cases hn
    exact ⟨_, fun _ => if_pos hwf, fun c ext h => congrArg zext64 (Cursor.peek_append_left ext h)⟩
  | curRds k =>
    cases hn
    exact ⟨_, fun _ => if_pos hwf, fun c ext h => congrArg (sext64 · k.toNat) (Cursor.peek_append_left ext h)⟩
  | curSkip k =>
    cases hn
    exact ⟨fun _ => 0, fun _ => rfl, fun _ _ _ => rfl⟩
  | _ => cases hn

/-- Only an illegal bit count makes a command not well formed, and such a command is answered ILLEGAL (log entry 9). -/
theorem wf_of_accepted {i : Instr} {s : State} (h : i.Accepted s) : i.wf = true := by
  cases i with
  | curRdu _ | curRds _ => exact h.1
  | _ => rfl

/-- 40_bit_cursor.md R108: asked for more bits than remain, the operation is answered OUT_OF_BITS. -/
theorem State.consumeBits_of_lt {s : State} {n : Nat} (result : Cursor → Data) (h : s.cur.remaining < n) :
    s.consumeBits n result = .next (s.answer .outOfBits 0) := if_pos h

/-- `State.consumeBits_of_le` with the new cursor named by `Cursor.advance`. -/
theorem State.consumeBits_eq_advance {s : State} {n : Nat} (result : Cursor → Data) (h : n ≤ s.cur.remaining) :
    s.consumeBits n result = .next ({ s with cur := s.cur.advance n }.answer .ok (result s.cur)) := by
  rw [State.consumeBits_of_le result h, Cursor.advance_eq_ofNat]

/-- `exec_curRdu_of_le` with the new cursor named by `Cursor.advance`. -/
theorem exec_curRdu_eq_advance (s : State) {n : BitVec 7} (hn : n.toNat ≤ 64) (hrem : n.toNat ≤ s.cur.remaining) :
    exec (.curRdu n) s = .next
      ({ s with cur := s.cur.advance n.toNat }.answer .ok (zext64 (s.cur.peek n.toNat))) := by
  rw [exec_curRdu_of_le s hn hrem, Cursor.advance_eq_ofNat]

/-! ### One move of cpos after another -/

/-- Two moves of cpos are one, even where they wrap. -/
theorem Cursor.advance_advance (c : Cursor) (m n : Nat) : (c.advance m).advance n = c.advance (m + n) := by
  simp [Cursor.advance, BitVec.ofNat_add, BitVec.add_assoc]

/-- `Cursor.advance_toNat` in a state of the invariant (10_state.md R30, R31). -/
theorem toNat_cpos_advance {s : State} {n : Nat} (hinv : s.Inv) (h : n ≤ s.cur.remaining) :
    (s.cur.advance n).cpos.toNat = s.cur.cpos.toNat + n := by
  obtain ⟨-, -, -, hcap⟩ := hinv.legal
  obtain ⟨-, hlen⟩ := hinv.memory
  exact Cursor.advance_toNat (hlen.trans hcap) hinv.cursor h

/-- A move of m bits that does not wrap takes m from the bits that remain. -/
theorem Cursor.remaining_advance {c : Cursor} {m : Nat} (hpos : (c.advance m).cpos.toNat = c.cpos.toNat + m) :
    (c.advance m).remaining = c.remaining - m := by
  rw [Cursor.remaining, hpos, Cursor.advance_clen, Cursor.remaining, Nat.sub_sub]

/-- 40_bit_cursor.md R104: what stands at cpos is a field of m bits and, behind it, what stands at cpos after the move. -/
theorem Cursor.peek_add {c : Cursor} {m : Nat} (hpos : (c.advance m).cpos.toNat = c.cpos.toNat + m) (n : Nat) :
    c.peek (m + n) = c.peek m * 2 ^ n + (c.advance m).peek n := by
  rw [Cursor.peek, field_add, Cursor.peek, Cursor.peek, hpos, Cursor.advance_cbuf]

/-! ### The obligations -/

/-- Settles O26: the answer is the field, whose value is the sum of its stream bits. -/
theorem curRduReadsAnUnsignedField : Obligations.CurRduReadsAnUnsignedField := by
  intro s n hn hrem
  refine ⟨_, exec_curRdu_of_le s hn hrem, ?_⟩
  rw [s.cur.zext64_peek_toNat hn]
  exact field_eq_sum s.cur.cbuf s.cur.cpos.toNat n.toNat

/-- Settles O29: both sides of the out-of-bits check; after exactly the remaining bits cpos stands at the end. -/
theorem outOfBitsCheckIsExact : Obligations.OutOfBitsCheckIsExact := by
  intro s i n hwf hn
  obtain ⟨result, hexec, -⟩ := exec_eq_consumeBits hwf hn
  refine ⟨fun hlt => ?_, fun hinv hall => ?_⟩
  · rw [hexec, State.consumeBits_of_lt result hlt]
  · refine ⟨_, _, (hexec s).trans (State.consumeBits_eq_advance result hall.le), rfl, ?_⟩
    have hcur := hinv.cursor
    rw [State.answer_cur, toNat_cpos_advance hinv hall.le, Cursor.advance_clen]
    omega

/-- Settles O30: the second read starts where the first ended, so the two fields stand end to end (`field_add`). -/
theorem twoReadsGiveTheBitsOfOne : Obligations.TwoReadsGiveTheBitsOfOne := by
  intro s m n k hinv hk hk64 hrem
  have hm : m.toNat ≤ s.cur.remaining := le_trans (by omega) hrem
  have hpos := toNat_cpos_advance hinv hm
  have hn : n.toNat ≤ (s.cur.advance m.toNat).remaining := by
    rw [Cursor.remaining_advance hpos, Cursor.remaining]
    omega
  have hm64 : m.toNat ≤ 64 := by omega
  have hn64 : n.toNat ≤ 64 := by omega
  refine ⟨_, _, _, _, _, _, exec_curRdu_eq_advance s hm64 hm, exec_curRdu_eq_advance _ hn64 hn,
    exec_curRdu_eq_advance s hk64 hrem, rfl, rfl, rfl, ?_, ?_⟩
  · rw [Cursor.zext64_peek_toNat _ hm64, Cursor.zext64_peek_toNat _ hn64, Cursor.zext64_peek_toNat _ hk64, ← hk]
    exact Cursor.peek_add hpos n.toNat
  · rw [← hk]
    exact Cursor.advance_advance s.cur m.toNat n.toNat

/-- Settles O32: the bits consumed remain in the longer buffer too, and the result is the same. -/
theorem readsStayInsideCbuf : Obligations.ReadsStayInsideCbuf := by
  intro s t i n d ext hn h hresp
  have hwf : i.wf = true := wf_of_accepted ((accepted_iff_resp_ok h).mpr ⟨d, hresp⟩)
  obtain ⟨result, hexec, hext⟩ := exec_eq_consumeBits hwf hn
  rw [hexec] at h
  obtain ⟨-, heq⟩ | ⟨hle, heq⟩ := s.consumeBits_cases n result
  · rw [heq] at h
    cases h
    cases hresp
  · rw [State.consumeBits_of_le result hle] at h
    cases h
    rw [hexec, State.consumeBits_of_le result (hle.trans (s.cur.remaining_le_append ext)), hext s.cur ext hle]
    rfl

/-- Settles O28: a skip consumes its bits and answers 0. -/
theorem curSkipDiscardsBits : Obligations.CurSkipDiscardsBits :=
  fun _ _ hrem => State.consumeBits_of_le (fun _ => 0) hrem

/-- Settles O33: the byte is appended at the old count. -/
theorem curAppendStoresOneByte : Obligations.CurAppendStoresOneByte := by
  intro s b hroom
  exact ⟨s.cur.append b, if_neg hroom, Cursor.append_clen s.cur b, rfl, byteAt_append_new s.cur.cbuf b,
    fun _ hk => byteAt_append_left [b] hk⟩

/-- Settles O34: the new buffer is the payload of the held frame. -/
theorem curAttachCopiesThePayload : Obligations.CurAttachCopiesThePayload := by
  intro s hheld
  exact ⟨{ cbuf := s.frm.payload, cpos := 0 }, if_pos hheld, s.frm.length_payload, rfl,
    fun _ hj => Framer.byteAt_payload hj⟩

end Sys2Proof.Machine
end

section
/-! PROOFS. The CRC of a byte sequence as a polynomial remainder over GF(2): the statements about 41_crc24q.md. -/

namespace Sys2Proof.Machine

open Polynomial

/-! ### Words as polynomials over GF(2) -/

/-- The polynomial whose coefficient of `x^i` is bit i of a word (41_crc24q.md R130). -/
noncomputable def bitsPoly {w : Nat} (v : BitVec w) : (ZMod 2)[X] :=
  ∑ i ∈ Finset.range w, if v.getLsbD i then X ^ i else 0

theorem coeff_bitsPoly {w : Nat} (v : BitVec w) (n : Nat) :
    (bitsPoly v).coeff n = if v.getLsbD n then 1 else 0 := by
  have hterm : ∀ i ∈ Finset.range w, (if v.getLsbD i then (X : (ZMod 2)[X]) ^ i else 0).coeff n =
      if n = i then (if v.getLsbD n then 1 else 0) else 0 := by
    intro i _
    obtain rfl | hne := eq_or_ne n i
    · rw [if_pos rfl]
      split_ifs <;> simp
    · rw [if_neg hne]
      split_ifs <;> simp [coeff_X_pow, hne]
  rw [bitsPoly, finsetSum_coeff, Finset.sum_congr rfl hterm, Finset.sum_ite_eq]
  by_cases hn : n < w
  · simp [hn]
  · simp [hn, BitVec.getLsbD_of_ge v n (by omega)]

theorem degree_bitsPoly_lt {w : Nat} (v : BitVec w) : (bitsPoly v).degree < w := by
  rw [degree_lt_iff_coeff_zero]
  intro n hn
  simp [coeff_bitsPoly, BitVec.getLsbD_of_ge v n hn]

theorem bitsPoly_eq_zero_iff {w : Nat} (v : BitVec w) : bitsPoly v = 0 ↔ v = 0 := by
  refine ⟨fun h => BitVec.eq_of_getLsbD_eq fun i _ => ?_, fun h => by simp [h, bitsPoly]⟩
  have hi := coeff_bitsPoly v i
  simpa [h] using hi

/-- Over GF(2) exclusive or is addition. -/
theorem bitsPoly_xor {w : Nat} (u v : BitVec w) : bitsPoly (u ^^^ v) = bitsPoly u + bitsPoly v := by
  ext n
  simp only [coeff_add, coeff_bitsPoly, BitVec.getLsbD_xor]
  cases u.getLsbD n <;> cases v.getLsbD n <;> decide

/-- A change of width that loses no set bit keeps the polynomial. -/
theorem bitsPoly_setWidth {w w' : Nat} {v : BitVec w} (h : ∀ i, w' ≤ i → v.getLsbD i = false) :
    bitsPoly (v.setWidth w') = bitsPoly v := by
  ext n
  rw [coeff_bitsPoly, coeff_bitsPoly, BitVec.getLsbD_setWidth]
  by_cases hn : n < w'
  · simp [hn]
  · simp [h n (by omega)]

/-- A left shift that loses no set bit multiplies by a power of x. -/
theorem bitsPoly_shiftLeft {w : Nat} {v : BitVec w} {k : Nat} (h : ∀ i, w ≤ i + k → v.getLsbD i = false) :
    bitsPoly (v <<< k) = X ^ k * bitsPoly v := by
  ext n
  rw [coeff_X_pow_mul', coeff_bitsPoly, coeff_bitsPoly, BitVec.getLsbD_shiftLeft]
  by_cases hk : k ≤ n
  · by_cases hn : n < w
    · simp [hk, hn]
    · simp [h (n - k) (by omega)]
  · simp [hk]

theorem bitsPoly_append {w w' : Nat} (u : BitVec w) (v : BitVec w') :
    bitsPoly (u ++ v) = X ^ w' * bitsPoly u + bitsPoly v := by
  ext n
  rw [coeff_add, coeff_X_pow_mul', coeff_bitsPoly, coeff_bitsPoly, coeff_bitsPoly, BitVec.getLsbD_append]
  by_cases hn : n < w'
  · simp [hn]
  · simp [hn, BitVec.getLsbD_of_ge v n (by omega)]

/-! ### Words modulo the generator -/

/-- `P(x)` of 41_crc24q.md R130. -/
noncomputable def crcGenerator : (ZMod 2)[X] :=
  X ^ 24 + X ^ 23 + X ^ 18 + X ^ 17 + X ^ 14 + X ^ 11 + X ^ 10 + X ^ 7 + X ^ 6 + X ^ 5 + X ^ 4 + X ^ 3 + X + 1

/-- The exponents of `P(x)` are the set bits of 0x1864CFB (41_crc24q.md R131). -/
theorem bitsPoly_crcPoly : bitsPoly crcPoly = crcGenerator := by
  have hbits : (Finset.range 25).filter (fun i => crcPoly.getLsbD i) =
      {24, 23, 18, 17, 14, 11, 10, 7, 6, 5, 4, 3, 1, 0} := by decide
  rw [bitsPoly, ← Finset.sum_filter, hbits]
  simp [crcGenerator, add_assoc]

theorem degree_crcGenerator : crcGenerator.degree = 24 := by
  unfold crcGenerator
  compute_degree!

/-- The residue class modulo `P(x)` of a word. -/
noncomputable def residue {w : Nat} (v : BitVec w) : AdjoinRoot crcGenerator :=
  AdjoinRoot.mk crcGenerator (bitsPoly v)

theorem residue_xor {w : Nat} (u v : BitVec w) : residue (u ^^^ v) = residue u + residue v := by
  rw [residue, bitsPoly_xor, map_add, residue, residue]

theorem residue_append {w w' : Nat} (u : BitVec w) (v : BitVec w') :
    residue (u ++ v) = AdjoinRoot.root crcGenerator ^ w' * residue u + residue v := by
  rw [residue, bitsPoly_append, map_add, map_mul, map_pow, AdjoinRoot.mk_X, residue, residue]

theorem residue_setWidth {w w' : Nat} {v : BitVec w} (h : ∀ i, w' ≤ i → v.getLsbD i = false) :
    residue (v.setWidth w') = residue v := by
  rw [residue, bitsPoly_setWidth h, residue]

theorem residue_shiftLeft {w : Nat} {v : BitVec w} {k : Nat} (h : ∀ i, w ≤ i + k → v.getLsbD i = false) :
    residue (v <<< k) = AdjoinRoot.root crcGenerator ^ k * residue v := by
  rw [residue, bitsPoly_shiftLeft h, map_mul, map_pow, AdjoinRoot.mk_X, residue]

theorem residue_crcPoly : residue crcPoly = 0 := by
  rw [residue, bitsPoly_crcPoly, AdjoinRoot.mk_self]

/-- Only the zero polynomial of degree below 24 is a multiple of `P(x)`. -/
theorem residue_eq_zero_iff (c : BitVec 24) : residue c = 0 ↔ c = 0 := by
  rw [residue, AdjoinRoot.mk_eq_zero, ← bitsPoly_eq_zero_iff]
  refine ⟨fun hdvd => eq_zero_of_dvd_of_degree_lt hdvd ?_, fun h => h ▸ dvd_zero _⟩
  rw [degree_crcGenerator]
  exact degree_bitsPoly_lt c

/-- `P(x)` has the constant term 1, so x has an inverse modulo `P(x)`. -/
theorem isUnit_root_crcGenerator : IsUnit (AdjoinRoot.root crcGenerator) := by
  refine IsUnit.of_mul_eq_one (AdjoinRoot.mk crcGenerator (-(X ^ 23 + X ^ 22 + X ^ 17 + X ^ 16 + X ^ 13 + X ^ 10 +
    X ^ 9 + X ^ 6 + X ^ 5 + X ^ 4 + X ^ 3 + X ^ 2 + 1))) ?_
  rw [← AdjoinRoot.mk_X, ← map_mul, ← map_one (AdjoinRoot.mk crcGenerator), AdjoinRoot.mk_eq_mk]
  refine ⟨-1, ?_⟩
  rw [crcGenerator]
  ring

/-! ### Shifts and bytes modulo the generator -/

/-- A working value with bit 24 clear has no bit from 24 on. -/
theorem getLsbD_of_bit24 {c : BitVec 25} (h : c.getLsbD 24 = false) (i : Nat) (hi : 24 ≤ i) :
    c.getLsbD i = false := by
  obtain rfl | hlt := Nat.eq_or_lt_of_le hi
  · exact h
  · exact BitVec.getLsbD_of_ge c i hlt

/-- A shift of a working value below x^24 multiplies it by x modulo `P(x)`: the reduction subtracts `P(x)`. -/
theorem residue_crcShift {c : BitVec 25} (h : c.getLsbD 24 = false) :
    residue (crcShift c) = AdjoinRoot.root crcGenerator * residue c := by
  have hshift : residue (c <<< 1) = AdjoinRoot.root crcGenerator * residue c := by
    rw [residue_shiftLeft fun i hi => getLsbD_of_bit24 h i (by omega), pow_one]
  simp only [crcShift]
  split
  · rw [residue_xor, residue_crcPoly, add_zero, hshift]
  · exact hshift

theorem residue_crcShifts (k : Nat) {c : BitVec 25} (h : c.getLsbD 24 = false) :
    residue (crcShifts k c) = AdjoinRoot.root crcGenerator ^ k * residue c := by
  induction k generalizing c with
  | zero => rw [crcShifts, pow_zero, one_mul]
  | succ k ih => rw [crcShifts, ih (crcShift_bit24 c), residue_crcShift h, pow_succ, mul_assoc]

/-- Feeding a byte adds it at x^16 and multiplies by x^8 modulo `P(x)`. -/
theorem residue_crcStep (c : BitVec 24) (b : Byte) :
    residue (crcStep c b) =
      AdjoinRoot.root crcGenerator ^ 8 * (residue c + AdjoinRoot.root crcGenerator ^ 16 * residue b) := by
  have hc : residue (c.setWidth 25) = residue c := residue_setWidth fun i hi => c.getLsbD_of_ge i (by omega)
  have hb : residue (b.setWidth 25) = residue b := residue_setWidth fun i hi => b.getLsbD_of_ge i (by omega)
  have hbyte : residue (b.setWidth 25 <<< 16) = AdjoinRoot.root crcGenerator ^ 16 * residue b := by
    rw [residue_shiftLeft, hb]
    intro i hi
    simp [BitVec.getLsbD_of_ge b i (by omega)]
  have hin : (c.setWidth 25 ^^^ (b.setWidth 25 <<< 16)).getLsbD 24 = false := by
    simp [BitVec.getLsbD_of_ge]
  rw [crcStep, residue_setWidth (getLsbD_of_bit24 (crcFeed_bit24 _ b)), crcFeed, residue_crcShifts 8 hin, residue_xor,
    hc, hbyte]

/-- `crcShifts` iterates one shift. -/
theorem crcShifts_eq_iterate (k : Nat) (c : BitVec 25) : crcShifts k c = crcShift^[k] c := by
  induction k generalizing c with
  | zero => rfl
  | succ k ih => exact ih (crcShift c)

/-! ### Byte sequences as polynomials over GF(2) -/

/-- `M(x)` of 41_crc24q.md R130. -/
noncomputable def messagePoly (bs : List Byte) : (ZMod 2)[X] :=
  ∑ k ∈ Finset.range (8 * bs.length), if streamBit bs k then X ^ (8 * bs.length - 1 - k) else 0

/-- The stream bits of the last byte, its most significant bit first (00_scope.md R8). -/
theorem streamBit_append_new (bs : List Byte) (b : Byte) {j : Nat} (hj : j < 8) :
    streamBit (bs ++ [b]) (8 * bs.length + j) = b.getLsbD (7 - j) := by
  rw [streamBit, show (8 * bs.length + j) / 8 = bs.length by omega, byteAt_append_new,
    show (8 * bs.length + j) % 8 = j by omega]

theorem messagePoly_append_singleton (bs : List Byte) (b : Byte) :
    messagePoly (bs ++ [b]) = X ^ 8 * messagePoly bs + bitsPoly b := by
  have hlen : 8 * (bs ++ [b]).length = 8 * bs.length + 8 := by
    rw [List.length_append, List.length_singleton, mul_add, mul_one]
  rw [messagePoly, hlen, Finset.sum_range_add, messagePoly, Finset.mul_sum, bitsPoly, ← Finset.sum_range_reflect _ 8]
  congr 1
  · refine Finset.sum_congr rfl fun k hk => ?_
    rw [Finset.mem_range] at hk
    rw [streamBit_append_left _ hk, mul_ite, mul_zero, ← pow_add]
    congr 3
    omega
  · refine Finset.sum_congr rfl fun j hj => ?_
    rw [Finset.mem_range] at hj
    rw [streamBit_append_new bs b (by omega), show 7 - (8 - 1 - j) = j by omega,
      show 8 * bs.length + 8 - 1 - (8 * bs.length + (8 - 1 - j)) = j by omega]

/-! ### The CRC of a sequence -/

/-- 41_crc24q.md R132: the bytes of a second part are fed to the CRC of the first. -/
theorem crc24q_append (A B : List Byte) : crc24q (A ++ B) = B.foldl crcStep (crc24q A) := by
  rw [← foldl_crcStep_zero, List.foldl_append, foldl_crcStep_zero]

/-- 41_crc24q.md R130: modulo `P(x)` the CRC is `M(x) * x^24`. -/
theorem residue_crc24q (bs : List Byte) :
    residue (crc24q bs) = AdjoinRoot.mk crcGenerator (messagePoly bs * X ^ 24) := by
  induction bs using List.reverseRecOn with
  | nil => simp [residue, messagePoly, crc24q, bitsPoly]
  | append_singleton bs b ih =>
    rw [crc24q_append, List.foldl_cons, List.foldl_nil, residue_crcStep, ih, messagePoly_append_singleton, residue]
    simp only [map_add, map_mul, map_pow, AdjoinRoot.mk_X]
    ring

/-- Three bytes fed to a register add their word to it and multiply by x^24 modulo `P(x)`. -/
theorem residue_foldl_crcStep_three (c x : BitVec 24) :
    residue ([x.extractLsb' 16 8, x.extractLsb' 8 8, x.extractLsb' 0 8].foldl crcStep c) =
      AdjoinRoot.root crcGenerator ^ 24 * residue (c ^^^ x) := by
  have hx : x.extractLsb' 16 8 ++ x.extractLsb' 8 8 ++ x.extractLsb' 0 8 = x := by
    rw [BitVec.extractLsb'_append_extractLsb'_eq_extractLsb' (show 16 = 8 + 8 from rfl),
      BitVec.extractLsb'_append_extractLsb'_eq_extractLsb' (show 8 = 0 + 8 from rfl), BitVec.extractLsb'_eq_self]
  have hres := congrArg residue hx
  rw [residue_append, residue_append] at hres
  simp only [List.foldl_cons, List.foldl_nil, residue_crcStep]
  rw [residue_xor, ← hres]
  ring

/-! ### The obligations -/

/-- Settles O24: the CRC and `M(x) * x^24` have the same residue class, so they differ by a multiple of `P(x)`. -/
theorem crcIsThePolynomialRemainder : Obligations.CrcIsThePolynomialRemainder := by
  intro bs
  obtain ⟨Q, hQ⟩ := AdjoinRoot.mk_eq_mk.mp (residue_crc24q bs).symm
  have hdiv : messagePoly bs * X ^ 24 = Q * crcGenerator + bitsPoly (crc24q bs) := by
    rw [mul_comm Q, ← hQ, sub_add_cancel]
  exact ⟨Q, hdiv⟩

/-- Settles O22: the register is the whole state of the loop. -/
theorem crcIsStreaming : Obligations.CrcIsStreaming :=
  ⟨crc24q_append, foldl_crcStep_zero⟩

/-- Settles O23: the three bytes add their word to the CRC and multiply by a unit modulo `P(x)`, and only the word 0
below x^24 is 0 modulo `P(x)`. -/
theorem stampedFrameHasResidueZero : Obligations.StampedFrameHasResidueZero := by
  intro M x
  rw [crc24q_append, ← residue_eq_zero_iff, residue_foldl_crcStep_three,
    (isUnit_root_crcGenerator.pow 24).mul_right_eq_zero, residue_eq_zero_iff]
  exact BitVec.xor_eq_zero_iff.trans eq_comm

/-- Settles O21: the byte enters at bits 23:16, and the eight shifts are an iteration of R130's inner loop. -/
theorem crcByteShiftsEightTimes : Obligations.CrcByteShiftsEightTimes := by
  refine ⟨fun b s => ?_, by decide, by decide, by decide, by decide⟩
  have hfeed : crcFeed (s.crcReg.setWidth 25) b = crcShift^[8] (s.crcReg.setWidth 25 ^^^ (b.setWidth 25 <<< 16)) :=
    crcShifts_eq_iterate 8 _
  simp only [exec, execCrcByte, crcStep, hfeed]
  rfl

end Sys2Proof.Machine
end

section
/-! PROOFS. Each pass of settle as an equation on the framer's fields, and the statements about the framer's state machine
(42_framer.md R152 to R158). -/

namespace Sys2Proof.Machine

/-! ### Looking for the preamble -/

theorem findIdx?_of_not_mem {bs : List Byte} (h : preamble ∉ bs) : bs.findIdx? (fun b => b == preamble) = none :=
  List.findIdx?_eq_none_iff.mpr fun b hb => by simpa using ne_of_mem_of_not_mem hb h

theorem findIdx?_preamble {pre : List Byte} (h : preamble ∉ pre) (rest : List Byte) :
    (pre ++ preamble :: rest).findIdx? (fun b => b == preamble) = some pre.length := by
  simp [List.findIdx?_append, List.findIdx?_cons, findIdx?_of_not_mem h]

/-! ### What each pass does, from the framer's fields -/

section Pass

variable {f : Framer} (hh : f.halted = false) (hr : f.frameReady = false)

include hh hr

/-- 42_framer.md R153 with no preamble in FBUF. -/
theorem Framer.pass_of_no_preamble (hs : f.sync = false) (hk : f.fbuf.findIdx? (fun b => b == preamble) = none) :
    f.pass = .exit (f.drop f.bcnt) := by
  simp [pass, scan, hh, hr, hs, hk]

/-- 42_framer.md R153 with a preamble k bytes in. -/
theorem Framer.pass_of_preamble {k : Nat} (hs : f.sync = false)
    (hk : f.fbuf.findIdx? (fun b => b == preamble) = some k) : f.pass = .again { f.drop k with sync := true } := by
  simp [pass, scan, hh, hr, hs, hk]

/-- 42_framer.md R154, R155: the header or the frame is not there yet. -/
theorem Framer.pass_of_short (hs : f.sync = true) (hb : f.bcnt < 3 ∨ f.bcnt < 6 + f.lengthField.toNat) :
    f.pass = .exit f := by
  simp only [pass, check, hh, hr, hs, Bool.or_self, Bool.false_eq_true, if_false, if_true]
  split
  · rfl
  · rw [if_pos (hb.resolve_left ‹_›)]

/-- 42_framer.md R156, R157: what a pass does with a whole candidate frame is decided by its CRC alone. -/
theorem Framer.pass_of_whole (hs : f.sync = true) (hb : 6 + f.lengthField.toNat ≤ f.bcnt) :
    f.pass = if f.computedCrc f.lengthField.toNat ≠ f.receivedCrc f.lengthField.toNat then
      .again { f.drop 1 with errorCount := f.errorCount + 1, sync := false }
    else .exit { f with frameReady := true, flen := f.lengthField } := by
  have h3 : ¬ f.bcnt < 3 := by omega
  simp only [pass, check, hh, hr, hs, h3, hb.not_gt, Bool.or_self, Bool.false_eq_true, if_false, if_true]

theorem Framer.pass_of_mismatch (hs : f.sync = true) (hb : 6 + f.lengthField.toNat ≤ f.bcnt)
    (hc : f.computedCrc f.lengthField.toNat ≠ f.receivedCrc f.lengthField.toNat) :
    f.pass = .again { f.drop 1 with errorCount := f.errorCount + 1, sync := false } := by
  rw [pass_of_whole hh hr hs hb, if_pos hc]

theorem Framer.pass_of_match (hs : f.sync = true) (hb : 6 + f.lengthField.toNat ≤ f.bcnt)
    (hc : f.computedCrc f.lengthField.toNat = f.receivedCrc f.lengthField.toNat) :
    f.pass = .exit { f with frameReady := true, flen := f.lengthField } := by
  rw [pass_of_whole hh hr hs hb, if_neg (not_not.mpr hc)]

end Pass

/-! ### End of data -/

theorem Framer.endOfData_of_not_eod {f : Framer} (h : f.eod = false) : f.endOfData = f := by
  simp [endOfData, h]

/-- 42_framer.md R158 after FRM_EOD: what the settle left is discarded. -/
theorem Framer.endOfData_of_searching {f : Framer} (he : f.eod = true) (hr : f.frameReady = false)
    (hh : f.halted = false) : f.endOfData = { f with fbuf := [], sync := false, ended := true } := by
  obtain ⟨-, -, -, heq⟩ | ⟨hne, -⟩ := f.endOfData_cases
  · exact heq
  · simp [he, hr, hh] at hne

theorem Framer.endOfData_of_idle {f : Framer} (h : f.frameReady = true ∨ f.halted = true) : f.endOfData = f := by
  obtain ⟨-, hr, hh, -⟩ | ⟨-, heq⟩ := f.endOfData_cases
  · simp [hr, hh] at h
  · exact heq

/-- Before end of data the loop's exit is all of a settle. -/
theorem Framer.settle_of_exit_of_not_eod {f g : Framer} (h : f.pass = .exit g) (he : g.eod = false) : f.settle = g := by
  rw [settle_of_exit h, endOfData_of_not_eod he]

/-- No pass reads `eod`: an exit is the same exit with it. -/
theorem Framer.pass_exit_with_eod {f g : Framer} (h : f.pass = .exit g) (e : Bool) :
    Framer.pass { f with eod := e } = .exit { g with eod := e } := by
  obtain ⟨hidle, rfl⟩ | ⟨hh, hr, ⟨hs, hk, rfl⟩ | ⟨hs, hb, rfl⟩ | ⟨hs, hb, hc, rfl⟩⟩ := pass_exit_cases h
  · exact pass_idle hidle
  · exact pass_of_no_preamble hh hr hs hk
  · exact pass_of_short hh hr hs hb
  · exact pass_of_match hh hr hs hb hc

/-- No pass reads `eod`: a repeated pass is the same with it. -/
theorem Framer.pass_again_with_eod {f g : Framer} (h : f.pass = .again g) (e : Bool) :
    Framer.pass { f with eod := e } = .again { g with eod := e } := by
  obtain ⟨hh, hr, ⟨hs, k, hk, rfl⟩ | ⟨hs, hb, hc, rfl⟩⟩ := pass_again_cases h
  · exact pass_of_preamble (f := { f with eod := e }) hh hr hs hk
  · exact pass_of_mismatch hh hr hs hb hc

/-- 42_framer.md R158: a settle after end of data is the settle without it, then end of data. -/
theorem Framer.settle_with_eod (f : Framer) :
    Framer.settle { f with eod := true } =
      Framer.endOfData { Framer.settle { f with eod := false } with eod := true } := by
  induction f using settle_induction with
  | exit f g h =>
    rw [settle_of_exit (pass_exit_with_eod h true), settle_of_exit_of_not_eod (pass_exit_with_eod h false) rfl]
  | again f g h ih =>
    rw [settle_of_again (pass_again_with_eod h true), settle_of_again (pass_again_with_eod h false), ih]

/-! ### A settle leaves nothing to do -/

/-- Where the loop has exited it exits again at once. -/
theorem Framer.pass_of_exited {f g : Framer} (h : f.pass = .exit g) : g.pass = .exit g := by
  obtain ⟨-, rfl⟩ | ⟨hh, hr, ⟨hs, -, rfl⟩ | ⟨-, -, rfl⟩ | ⟨-, -, -, rfl⟩⟩ := pass_exit_cases h
  · exact h
  · have hpass := pass_of_no_preamble (f := f.drop f.bcnt) hh hr hs (by simp)
    rw [hpass]
    simp [drop]
  · exact h
  · exact pass_idle (.inr rfl)

theorem Framer.settle_settle (f : Framer) : f.settle.settle = f.settle := by
  induction f using settle_induction with
  | exit f g h =>
    rw [settle_of_exit h]
    obtain ⟨he, hr, hh, hend⟩ | ⟨-, hend⟩ := g.endOfData_cases
    · have hempty : Framer.pass { g with fbuf := [], sync := false, ended := true } =
          .exit { g with fbuf := [], sync := false, ended := true } := pass_of_no_preamble hh hr rfl rfl
      rw [hend, settle_of_exit hempty]
      exact endOfData_of_searching he hr hh
    · rw [hend, settle_of_exit (pass_of_exited h), hend]
  | again f g h ih => rw [settle_of_again h, ih]

/-- 42_framer.md R156: each mismatch counts 1 and drops a byte, so a settle counts at most `bcnt` of them. -/
theorem Framer.settle_errorCount_le (f : Framer) :
    ∃ k, k ≤ f.bcnt ∧ f.settle.errorCount = f.errorCount + BitVec.ofNat 64 k := by
  induction f using settle_induction with
  | exit f g h =>
    have hsame : g.errorCount = f.errorCount := by
      obtain ⟨-, rfl⟩ | ⟨-, -, ⟨-, -, rfl⟩ | ⟨-, -, rfl⟩ | ⟨-, -, -, rfl⟩⟩ := pass_exit_cases h <;> rfl
    exact ⟨0, Nat.zero_le _, by simp [settle_of_exit h, hsame]⟩
  | again f g h ih =>
    obtain ⟨k, hk, hcount⟩ := ih
    rw [settle_of_again h, hcount]
    obtain ⟨-, -, ⟨-, j, -, rfl⟩ | ⟨-, hb, -, rfl⟩⟩ := pass_again_cases h
    · have hdrop : k ≤ f.bcnt - j := hk.trans_eq (f.drop_bcnt j)
      exact ⟨k, by omega, rfl⟩
    · have hdrop : k ≤ f.bcnt - 1 := hk.trans_eq (f.drop_bcnt 1)
      exact ⟨1 + k, by omega, by rw [BitVec.ofNat_add, ← BitVec.add_assoc]; rfl⟩

/-! ### The obligations -/

/-- Settles O35: one pass of the scan. -/
theorem nosyncScanFindsTheFirstPreamble : Obligations.NosyncScanFindsTheFirstPreamble := by
  intro f hh hr hs
  refine ⟨fun pre rest hbuf hpre => ?_, fun he hno => ?_⟩
  · have hk : f.fbuf.findIdx? (fun b => b == preamble) = some pre.length := hbuf ▸ findIdx?_preamble hpre rest
    rw [Framer.settle_of_again (Framer.pass_of_preamble hh hr hs hk), Framer.drop, hbuf, List.drop_left]
  · have hexit := Framer.pass_of_no_preamble hh hr hs (findIdx?_of_not_mem hno)
    rw [Framer.settle_of_exit_of_not_eod hexit he, Framer.drop, List.drop_length]

/-- Settles O36: the pass exits with the framer as it is. -/
theorem syncedWaitsForTheWholeFrame : Obligations.SyncedWaitsForTheWholeFrame :=
  fun _ hh hr he hs =>
    ⟨fun h3 => Framer.settle_of_exit_of_not_eod (Framer.pass_of_short hh hr hs (.inl h3)) he,
      fun h6 => Framer.settle_of_exit_of_not_eod (Framer.pass_of_short hh hr hs (.inr h6)) he⟩

/-- Settles O37: one pass of the check. -/
theorem crcMismatchDropsOneByte : Obligations.CrcMismatchDropsOneByte := by
  intro f L hh hr hs _ hL hb hc
  subst hL
  exact Framer.settle_of_again (Framer.pass_of_mismatch hh hr hs hb hc)

/-- Settles O38: one pass of the check; a framer that holds a frame does nothing in a settle. -/
theorem crcMatchHoldsTheFrame : Obligations.CrcMatchHoldsTheFrame := by
  intro f L hh hr hs _ hL hb hc
  subst hL
  have hsettle : f.settle = { f with frameReady := true, flen := f.lengthField } := by
    rw [Framer.settle_of_exit (Framer.pass_of_match hh hr hs hb hc), Framer.endOfData_of_idle (.inl rfl)]
  refine ⟨?_, fun bs => Framer.settle_idle (.inr ?_)⟩
  · rw [hsettle, BitVec.ofNat_toNat, BitVec.setWidth_eq]
    rfl
  · rw [hsettle]

/-- Settles O39: no pass reads `eod`, so it only matters after the loop. -/
theorem endOfDataDiscardsThePartialFrame : Obligations.EndOfDataDiscardsThePartialFrame := by
  intro f g
  rw [Framer.settle_with_eod]
  split
  · exact Framer.endOfData_of_idle ‹_›
  · rename_i hidle
    simp only [not_or, Bool.not_eq_true] at hidle
    exact Framer.endOfData_of_searching rfl hidle.1 hidle.2

/-- Settles O40: by induction over the passes, and since an exited loop exits again. -/
theorem settleEndsAndIsIdempotent : Obligations.SettleEndsAndIsIdempotent :=
  fun f => ⟨f.settle_errorCount_le, f.settle_settle⟩

end Sys2Proof.Machine
end

section
/-! PROOFS. Bytes appended behind what a settle looks at: processing at each push equals processing on demand
(42_framer.md R168). -/

namespace Sys2Proof.Machine

/-- More stream bytes behind those in FBUF. -/
def Framer.extend (f : Framer) (bs : List Byte) : Framer := { f with fbuf := f.fbuf ++ bs }

@[simp] theorem Framer.extend_nil (f : Framer) : f.extend [] = f := by simp [extend]

theorem Framer.append_eq_extend (f : Framer) (b : Byte) : f.append b = f.extend [b] := rfl

theorem Framer.extend_extend (f : Framer) (as bs : List Byte) : (f.extend as).extend bs = f.extend (as ++ bs) := by
  simp [extend]

theorem Framer.bcnt_le_extend (f : Framer) (bs : List Byte) : f.bcnt ≤ (f.extend bs).bcnt :=
  (List.prefix_append f.fbuf bs).length_le

/-! ### What a candidate frame's check reads is there before the bytes behind it -/

section Candidate

variable {f : Framer} (bs : List Byte)

theorem Framer.byte_extend {i : Nat} (h : i < f.bcnt) : (f.extend bs).byte i = f.byte i := byteAt_append_left bs h

theorem Framer.drop_extend {k : Nat} (h : k ≤ f.bcnt) : (f.extend bs).drop k = (f.drop k).extend bs := by
  simp only [drop, extend, List.drop_append_of_le_length h]

theorem Framer.lengthField_extend (h : 3 ≤ f.bcnt) : (f.extend bs).lengthField = f.lengthField := by
  simp only [lengthField, byte_extend bs (show 1 < f.bcnt by omega), byte_extend bs (show 2 < f.bcnt by omega)]

theorem Framer.computedCrc_extend {l : Nat} (h : 3 + l ≤ f.bcnt) : (f.extend bs).computedCrc l = f.computedCrc l := by
  simp only [computedCrc, extend, List.take_append_of_le_length h]

theorem Framer.receivedCrc_extend {l : Nat} (h : 6 + l ≤ f.bcnt) : (f.extend bs).receivedCrc l = f.receivedCrc l := by
  simp only [receivedCrc, byte_extend bs (show 3 + l < f.bcnt by omega), byte_extend bs (show 4 + l < f.bcnt by omega),
    byte_extend bs (show 5 + l < f.bcnt by omega)]

/-- A preamble at the front stays there. -/
theorem head?_append_of_head? {buf : List Byte} {b : Byte} (h : buf.head? = some b) : (buf ++ bs).head? = some b := by
  simp [List.head?_append, h]

end Candidate

/-! ### Passes with more bytes behind -/

/-- A preamble found is found at the same place, and a mismatch stays one (42_framer.md R153, R156). -/
theorem Framer.pass_again_extend {f g : Framer} (h : f.pass = .again g) (bs : List Byte) :
    (f.extend bs).pass = .again (g.extend bs) := by
  obtain ⟨hh, hr, ⟨hs, k, hk, rfl⟩ | ⟨hs, hb, hc, rfl⟩⟩ := pass_again_cases h
  · have hle : k ≤ f.bcnt := by
      obtain ⟨hlt, -⟩ := List.findIdx?_eq_some_iff_getElem.mp hk
      exact hlt.le
    have hfound : (f.extend bs).fbuf.findIdx? (fun b => b == preamble) = some k := by
      simp [extend, List.findIdx?_append, hk]
    rw [pass_of_preamble (f := f.extend bs) hh hr hs hfound, drop_extend bs hle]
    rfl
  · have hl : (f.extend bs).lengthField = f.lengthField := lengthField_extend bs (by omega)
    have hbound := hb.trans (f.bcnt_le_extend bs)
    rw [pass_of_mismatch (f := f.extend bs) hh hr hs (hl ▸ hbound), drop_extend bs (by omega)]
    · rfl
    · rwa [hl, computedCrc_extend bs (by omega), receivedCrc_extend bs hb]

/-- A frame whose CRC matches is held with more bytes behind it (42_framer.md R157). -/
theorem Framer.pass_of_match_extend {f : Framer} (hh : f.halted = false) (hr : f.frameReady = false)
    (hs : f.sync = true) (hb : 6 + f.lengthField.toNat ≤ f.bcnt)
    (hc : f.computedCrc f.lengthField.toNat = f.receivedCrc f.lengthField.toNat) (bs : List Byte) :
    (f.extend bs).pass = .exit (Framer.extend { f with frameReady := true, flen := f.lengthField } bs) := by
  have hl : (f.extend bs).lengthField = f.lengthField := lengthField_extend bs (by omega)
  have hbound := hb.trans (f.bcnt_le_extend bs)
  rw [pass_of_match (f := f.extend bs) hh hr hs (hl ▸ hbound), hl]
  · rfl
  · rwa [hl, computedCrc_extend bs (by omega), receivedCrc_extend bs hb]

/-- In NOSYNC bytes that are no preamble play no part in a settle before end of data (42_framer.md R153). -/
theorem Framer.settle_extend_of_no_preamble {f : Framer} (hh : f.halted = false) (hr : f.frameReady = false)
    (he : f.eod = false) (hs : f.sync = false) (hk : f.fbuf.findIdx? (fun b => b == preamble) = none)
    (bs : List Byte) : (f.extend bs).settle = Framer.settle { f with fbuf := bs } := by
  cases hbs : bs.findIdx? (fun b => b == preamble) with
  | none =>
    have hall : (f.extend bs).fbuf.findIdx? (fun b => b == preamble) = none := by
      simp only [extend, List.findIdx?_append, hk, hbs, Option.map_none, Option.or_none]
    rw [settle_of_exit_of_not_eod (pass_of_no_preamble (f := f.extend bs) hh hr hs hall) he,
      settle_of_exit_of_not_eod (pass_of_no_preamble (f := { f with fbuf := bs }) hh hr hs hbs) he]
    simp only [drop, extend, List.drop_length]
  | some k =>
    have hfirst : (f.extend bs).fbuf.findIdx? (fun b => b == preamble) = some (k + f.bcnt) := by
      simp only [extend, List.findIdx?_append, hk, hbs, Option.map_some, Option.none_or]
    rw [settle_of_again (pass_of_preamble (f := f.extend bs) hh hr hs hfirst),
      settle_of_again (pass_of_preamble (f := { f with fbuf := bs }) hh hr hs hbs)]
    simp only [drop, extend, Nat.add_comm k, List.drop_length_add_append]

/-- 42_framer.md R168: a settle before more bytes come changes nothing in the settle after them. -/
theorem Framer.settle_extend_settle {f : Framer} (he : f.eod = false) (bs : List Byte) :
    (f.settle.extend bs).settle = (f.extend bs).settle := by
  induction f using settle_induction with
  | exit f g h =>
    obtain ⟨-, rfl⟩ | ⟨hh, hr, ⟨hs, hk, rfl⟩ | ⟨-, -, rfl⟩ | ⟨hs, hb, hc, rfl⟩⟩ := pass_exit_cases h
    · rw [settle_of_exit_of_not_eod h he]
    · rw [settle_of_exit_of_not_eod h he, settle_extend_of_no_preamble hh hr he hs hk]
      simp only [drop, extend, List.drop_length, List.nil_append]
    · rw [settle_of_exit_of_not_eod h he]
    · rw [settle_of_exit_of_not_eod h he, settle_of_exit_of_not_eod (pass_of_match_extend hh hr hs hb hc bs) he]
      exact settle_idle (.inr rfl)
  | again f g h ih =>
    have heg : g.eod = false := by
      obtain ⟨-, -, ⟨-, k, -, rfl⟩ | ⟨-, -, -, rfl⟩⟩ := pass_again_cases h <;> exact he
    rw [settle_of_again h, settle_of_again (pass_again_extend h bs), ih heg]

/-! ### The obligation -/

/-- Settles O51: by induction over the bytes, each push's settle merging into the one after it. -/
theorem pushingOneByOneEqualsSettlingOnce : Obligations.PushingOneByOneEqualsSettlingOnce := by
  intro f bs he hsettled
  show bs.foldl Framer.push f = (f.extend bs).settle
  induction bs generalizing f with
  | nil => rw [List.foldl_nil, Framer.extend_nil, hsettled]
  | cons b bs ih =>
    have hpush : (f.push b).eod = false := (Framer.settle_eod (f.append b)).trans he
    calc (b :: bs).foldl Framer.push f
      _ = ((f.append b).settle.extend bs).settle := ih (f.push b) hpush (f.append b).settle_settle
      _ = ((f.append b).extend bs).settle := Framer.settle_extend_settle (f := f.append b) he bs
      _ = (f.extend (b :: bs)).settle := by rw [Framer.append_eq_extend, Framer.extend_extend, List.singleton_append]

end Sys2Proof.Machine
end

section
/-! PROOFS. The invariants of 42_framer.md R159 after every step, and the framer's commands (R161 to R166). -/

namespace Sys2Proof.Machine

/-! ### A settle establishes the framer's invariants -/

/-- What a settle starts from: R159 without the items about waiting and end of data, which the settle brings about. -/
structure Framer.Settleable (f : Framer) : Prop where
  held : f.HeldFrame
  noFrame : f.NoFrameNoLength
  halted : f.HaltedNoFrame
  synced : f.SyncedAtPreamble
  notEnded : f.ended = false

/-- Before the end of the stream the invariants are more than a settle starts from. -/
theorem Framer.Inv.settleable {f : Framer} (h : f.Inv) (he : f.ended = false) : f.Settleable :=
  ⟨h.held, h.noFrame, h.halted, h.synced, he⟩

/-- Where no frame is held only the preamble in SYNCED and the length 0 are asked for. -/
theorem Framer.Settleable.of_no_frame {f : Framer} (hr : f.frameReady = false) (hl : f.flen = 0)
    (hsync : f.SyncedAtPreamble) (he : f.ended = false) : f.Settleable where
  held h := by simp [hr] at h
  noFrame _ := hl
  halted _ := hr
  synced := hsync
  notEnded := he

/-- The byte at which the scan stops is the preamble (42_framer.md R153). -/
theorem head?_drop_of_findIdx? {bs : List Byte} {k : Nat} (h : bs.findIdx? (fun b => b == preamble) = some k) :
    (bs.drop k).head? = some preamble := by
  obtain ⟨hlt, heq, -⟩ := List.findIdx?_eq_some_iff_getElem.mp h
  rw [List.head?_drop, List.getElem?_eq_getElem hlt, beq_iff_eq.mp heq]

theorem Framer.Settleable.again {f g : Framer} (h : f.Settleable) (hpass : f.pass = .again g) : g.Settleable := by
  obtain ⟨-, hr, ⟨-, k, hk, rfl⟩ | ⟨-, -, -, rfl⟩⟩ := pass_again_cases hpass
  · exact .of_no_frame hr (h.noFrame hr) (fun _ => head?_drop_of_findIdx? hk) h.notEnded
  · exact .of_no_frame hr (h.noFrame hr) nofun h.notEnded

/-- Where the loop exits, a framer that is neither halted nor holding a frame has nothing left to examine
(42_framer.md R159 item 3). -/
theorem Framer.Settleable.exit {f g : Framer} (h : f.Settleable) (hpass : f.pass = .exit g) :
    g.Settleable ∧ g.Waiting := by
  obtain ⟨hidle, rfl⟩ | ⟨hh, hr, ⟨hs, -, rfl⟩ | ⟨hs, hb, rfl⟩ | ⟨hs, hb, hc, rfl⟩⟩ := pass_exit_cases hpass
  · refine ⟨h, fun hh hr => ?_⟩
    simp [hh, hr] at hidle
  · refine ⟨.of_no_frame hr (h.noFrame hr) (fun hs' => ?_) h.notEnded, fun _ _ => ⟨fun _ => ?_, fun hs' => ?_⟩⟩
    · cases hs.symm.trans hs'
    · simp
    · cases hs.symm.trans hs'
  · refine ⟨h, fun _ _ => ⟨fun hs' => ?_, fun _ => ⟨h.synced hs, hb⟩⟩⟩
    cases hs.symm.trans hs'
  · refine ⟨?_, nofun⟩
    exact
      { held := fun _ => ⟨hs, hh, hb, rfl, hc⟩
        noFrame := nofun
        halted := fun hh' => by cases hh.symm.trans hh'
        synced := h.synced
        notEnded := h.notEnded }

/-- Taking end of data brings about the two items of R159 and R26 that speak of it. -/
theorem Framer.Settleable.endOfData_inv {f : Framer} (h : f.Settleable) (hwait : f.Waiting) : f.endOfData.Inv := by
  obtain ⟨he, hr, hh, heq⟩ | ⟨hnot, heq⟩ := f.endOfData_cases <;> rw [heq]
  · exact
      { held := fun hr' => by cases hr.symm.trans hr'
        noFrame := fun _ => h.noFrame hr
        waiting := fun _ _ => ⟨fun _ => rfl, nofun⟩
        ended := fun _ => ⟨he, rfl, rfl, hr, hh⟩
        halted := fun _ => hr
        synced := nofun
        endTaken := fun _ _ _ => rfl }
  · exact
      { held := h.held
        noFrame := h.noFrame
        waiting := hwait
        ended := fun he' => by cases h.notEnded.symm.trans he'
        halted := h.halted
        synced := h.synced
        endTaken := fun he hr hh => by simp [he, hr, hh] at hnot }

theorem Framer.Settleable.settle_inv {f : Framer} (h : f.Settleable) : f.settle.Inv := by
  obtain ⟨g, k, hg, hexit, heq⟩ := settle_spec (fun _ _ hf hpass => Settleable.again hf hpass) f h
  obtain ⟨hk, hwait⟩ := hg.exit hexit
  rw [heq]
  exact hk.endOfData_inv hwait

/-! ### What the framer's commands hand to the settle -/

/-- More bytes behind a held frame do not change it, nor the preamble at the front. -/
theorem Framer.Settleable.extend {f : Framer} (h : f.Settleable) (bs : List Byte) : (f.extend bs).Settleable where
  held hr := by
    obtain ⟨hs, hh, hb, hl, hc⟩ := h.held hr
    have hlen : (f.extend bs).lengthField = f.lengthField := lengthField_extend bs (by omega)
    have hcrc : (f.extend bs).computedCrc f.flen.toNat = f.computedCrc f.flen.toNat := computedCrc_extend bs (by omega)
    exact ⟨hs, hh, hb.trans (f.bcnt_le_extend bs), hl.trans hlen.symm,
      hcrc.trans (hc.trans (receivedCrc_extend bs hb).symm)⟩
  noFrame := h.noFrame
  halted := h.halted
  synced hs := head?_append_of_head? bs (h.synced hs)
  notEnded := h.notEnded

theorem Framer.Settleable.set_eod {f : Framer} (h : f.Settleable) (e : Bool) : Framer.Settleable { f with eod := e } :=
  ⟨h.held, h.noFrame, h.halted, h.synced, h.notEnded⟩

theorem Framer.consume_settleable {f : Framer} (he : f.ended = false) (v : Verdict) : (f.consume v).Settleable :=
  .of_no_frame rfl rfl nofun he

/-- Until end of data is given it is not taken, and not while a frame is held either (42_framer.md R159 item 4). -/
theorem Framer.Inv.not_ended {f : Framer} (h : f.Inv) (hlive : f.eod = false ∨ f.frameReady = true) :
    f.ended = false := by
  by_contra hended
  obtain ⟨he, -, -, hr, -⟩ := h.ended (by simpa using hended)
  simp [he, hr] at hlive

/-- A framer in which R159 holds has nothing to settle before end of data. -/
theorem Framer.Inv.settle_eq_self {f : Framer} (h : f.Inv) (he : f.eod = false) : f.settle = f := by
  by_cases hidle : f.halted = true ∨ f.frameReady = true
  · exact settle_idle hidle
  · simp only [not_or, Bool.not_eq_true] at hidle
    obtain ⟨hh, hr⟩ := hidle
    obtain ⟨hnosync, hsynced⟩ := h.waiting hh hr
    refine settle_of_exit_of_not_eod ?_ he
    cases hs : f.sync with
    | false =>
      have hempty : f.fbuf = [] := List.eq_nil_of_length_eq_zero (hnosync hs)
      rw [pass_of_no_preamble hh hr hs (by rw [hempty]; rfl), drop, hempty, List.drop_nil, ← hempty]
    | true => exact pass_of_short hh hr hs (hsynced hs).2

/-- 42_framer.md R162: with no frame held the stream ends at once. -/
theorem Framer.Inv.giveEod_of_no_frame {f : Framer} (h : f.Inv) (hh : f.halted = false) (he : f.eod = false)
    (hr : f.frameReady = false) :
    f.giveEod = { f with eod := true, ended := true, sync := false, fbuf := [] } := by
  have hsame : { f with eod := false } = f := by rw [← he]
  rw [giveEod, settle_with_eod, hsame, h.settle_eq_self he]
  exact endOfData_of_searching rfl hr hh

end Sys2Proof.Machine

namespace Sys2Proof

open Machine

/-! ### What a performed command keeps -/

/-- 42_framer.md R159 after every performed command. -/
theorem Instr.frmEffect_inv {i : Instr} {s : State} (hinv : s.frm.Inv) (hacc : i.Accepted s) :
    (i.frmEffect s.frm).Inv := by
  cases i with
  | reset | frmReset => exact framer_reset_inv
  | frmPush b =>
    obtain ⟨-, he, -⟩ := hacc
    exact ((hinv.settleable (hinv.not_ended (.inl he))).extend [b]).settle_inv
  | frmEod =>
    obtain ⟨-, he⟩ := hacc
    exact ((hinv.settleable (hinv.not_ended (.inl he))).set_eod true).settle_inv
  | frmAck v => exact (Framer.consume_settleable (hinv.not_ended (.inr hacc)) v).settle_inv
  | _ => exact hinv

/-- 10_state.md R27, R30 after every performed command. -/
theorem Instr.effect_memory_wf {i : Instr} {s : State} (hinv : s.Inv) (hacc : i.Accepted s) :
    Memory.wf (i.effect s) := by
  have hmem := hinv.memory
  cases i with
  | reset => exact memory_wf_resetWith s.cfg
  | frmReset => exact memory_wf_shrink hmem (Nat.zero_le _)
  | frmPush b =>
    obtain ⟨-, -, hroom⟩ := hacc
    exact memory_wf_push hmem hroom b
  | frmEod => exact memory_wf_giveEod hmem
  | frmAck v => exact memory_wf_acknowledge hmem v
  | curClear => exact ⟨hmem.1, Nat.zero_le _⟩
  | curAppend b => exact memory_wf_curAppend hmem hacc b
  | curAttach =>
    obtain ⟨-, -, hcap, -⟩ := hinv.legal
    exact memory_wf_attach hmem hcap
  | _ => exact hmem

/-- 10_state.md R20, R31: a read or skip of bits that remain ends at most at the end of CBUF. -/
theorem cpos_advance_le {s : State} {n : Nat} (hinv : s.Inv) (h : n ≤ s.cur.remaining) :
    (s.cur.advance n).cpos.toNat ≤ 8 * (s.cur.advance n).clen := by
  have hpos := hinv.cursor
  rw [toNat_cpos_advance hinv h, Cursor.advance_clen]
  rw [Cursor.remaining] at h
  omega

/-- 10_state.md R20 after every performed command. -/
theorem Instr.curEffect_cpos_le {i : Instr} {s : State} (hinv : s.Inv) (hacc : i.Accepted s) :
    (i.curEffect s.frm s.cur).cpos.toNat ≤ 8 * (i.curEffect s.frm s.cur).clen := by
  cases i with
  | reset | curClear | curAttach => exact Nat.zero_le _
  | curAppend b =>
    have hpos := hinv.cursor
    simp only [curEffect, Cursor.append_cpos, Cursor.append_clen]
    omega
  | curRdu n | curRds n =>
    obtain ⟨-, hrem⟩ := hacc
    exact cpos_advance_le hinv hrem
  | curSkip n => exact cpos_advance_le hinv hacc
  | _ => exact hinv.cursor

end Sys2Proof

namespace Sys2Proof.Machine

/-! ### The invariants after every command and step -/

theorem effect_inv {i : Instr} {s : State} (hinv : s.Inv) (hacc : i.Accepted s) : (i.effect s).Inv :=
  ⟨hinv.legal, Instr.effect_memory_wf hinv hacc, Instr.curEffect_cpos_le hinv hacc, Instr.frmEffect_inv hinv.framer hacc⟩

/-- The invariants do not speak of the port or of the answer at it. -/
theorem State.Inv.of_port_resp {s : State} (h : s.Inv) (port : List Word) (resp : Option Response) :
    State.Inv { s with port := port, resp := resp } :=
  ⟨h.legal, h.memory, h.cursor, h.framer⟩

theorem State.Inv.answer {s : State} (h : s.Inv) (st : Status) (d : Data) : (s.answer st d).Inv :=
  h.of_port_resp s.port (some ⟨st, d⟩)

theorem exec_inv {i : Instr} {s t : State} (hinv : s.Inv) (h : exec i s = .next t) : t.Inv := by
  obtain ⟨-, st, -, rfl⟩ | ⟨hacc, d, -, rfl⟩ := exec_next_cases h
  · exact hinv.answer st 0
  · exact (effect_inv hinv hacc).answer .ok d

/-- A performed command whose rule returns no value is its effect, answered (OK, 0). -/
theorem exec_of_accepted {i : Instr} {s : State} (hacc : i.Accepted s) (hd : i.returnsData = false) :
    exec i s = .next ((i.effect s).answer .ok 0) := by
  obtain ⟨hn, -⟩ | ⟨-, d, hzero, h⟩ := exec_cases i s
  · exact absurd hacc hn
  · rw [h, hzero hd]

/-! ### The obligations -/

/-- Settles O49: a settle establishes the framer's invariants, and every performed command keeps the bounds. -/
theorem everyStepKeepsTheInvariants : Obligations.EveryStepKeepsTheInvariants := by
  intro s t hinv h
  cases hport : s.port with
  | nil =>
    rw [step_of_no_word hport] at h
    cases h
    exact hinv
  | cons w rest =>
    have htaken : State.Inv { s with port := rest } := hinv.of_port_resp rest s.resp
    cases hdec : decode w with
    | error e =>
      rw [step_of_decode_error hport hdec] at h
      cases h
      exact htaken.answer .illegal 0
    | ok i =>
      rw [step_of_decode hport hdec] at h
      exact exec_inv htaken h

/-- Settles O19: the command's meaning is the answer. -/
theorem frmErrcntAnswersTheCount : Obligations.FrmErrcntAnswersTheCount := fun _ => rfl

/-- Settles O41: the push is accepted; a settle does nothing while a frame is held. -/
theorem frmPushAppendsAndSettles : Obligations.FrmPushAppendsAndSettles := by
  intro b s hh he hroom
  have hexec := exec_of_accepted (i := .frmPush b) ⟨hh, he, hroom⟩ rfl
  refine ⟨hexec, fun hr => ?_⟩
  have hidle : s.frm.push b = s.frm.append b := Framer.settle_idle (.inr hr)
  rw [hexec, Instr.effect, Instr.frmEffect, hidle]
  rfl

/-- Settles O42: in a framer of R159 the settle itself does nothing, and end of data is taken unless a frame is held. -/
theorem frmEodEndsTheStream : Obligations.FrmEodEndsTheStream := by
  intro s hinv hh he
  have hexec := exec_of_accepted (i := .frmEod) (s := s) ⟨hh, he⟩ rfl
  rw [Instr.effect, Instr.frmEffect] at hexec
  refine ⟨fun hr => ?_, fun hr => ?_⟩
  · rw [hexec, hinv.framer.giveEod_of_no_frame hh he hr]
    rfl
  · have hidle : s.frm.giveEod = { s.frm with eod := true } := Framer.settle_idle (.inr hr)
    rw [hexec, hidle]
    rfl

/-- Settles O43: the verdict's own writes, then the settle, which does nothing in a halted framer. -/
theorem frmAckConsumesTheFrame : Obligations.FrmAckConsumesTheFrame := by
  intro s hr f
  have hexec (v : Verdict) := exec_of_accepted (i := .frmAck v) (s := s) hr rfl
  refine ⟨hexec .ok, hexec .fail, ?_⟩
  have hidle : s.frm.acknowledge .okStop = s.frm.consume .okStop := Framer.settle_idle (.inl rfl)
  rw [hexec, Instr.effect, Instr.frmEffect, hidle]
  rfl

/-- Settles O44: neither of the command's two checks fails. -/
theorem frmRdpayAnswersThePayloadByte : Obligations.FrmRdpayAnswersThePayloadByte :=
  fun _ _ hr hi => (if_pos hr).trans (if_neg hi.not_ge)

end Sys2Proof.Machine
end

section
/-! PROOFS. Sequences of framer commands: a push before or after a verdict (42_framer.md R168), and a stream that holds no
frame (R169). -/

namespace Sys2Proof.Machine

/-- A command that is performed and returns no value, with the commands issued after it. -/
theorem issue_cons_of_accepted {i : Instr} {s : State} (hacc : i.Accepted s) (hd : i.returnsData = false)
    (is : List Instr) : s.issue (i :: is) = ((i.effect s).answer .ok 0).issue is :=
  issue_cons_of_next (exec_of_accepted hacc hd) is

theorem issue_append {s t : State} {is : List Instr} (h : s.issue is = some t) (js : List Instr) :
    s.issue (is ++ js) = t.issue js := by
  induction is generalizing s with
  | nil => cases h; rfl
  | cons i is ih =>
    obtain ⟨u, hu⟩ := exec_total i s
    rw [issue_cons_of_next hu] at h
    rw [List.cons_append, issue_cons_of_next hu, ih h]

/-! ### A push and a verdict -/

/-- The verdict removes the front of FBUF, where the byte pushed behind a held frame is not. -/
theorem Framer.consume_append {f : Framer} (h : 6 + f.flen.toNat ≤ f.bcnt) (b : Byte) (v : Verdict) :
    (f.append b).consume v = (f.consume v).append b := by
  have hdrop : (f.fbuf ++ [b]).drop (6 + f.flen.toNat) = f.fbuf.drop (6 + f.flen.toNat) ++ [b] :=
    List.drop_append_of_le_length h
  simp only [consume, append, drop, hdrop]

theorem Framer.acknowledge_push {f : Framer} (hr : f.frameReady = true) (he : f.eod = false)
    (h : 6 + f.flen.toNat ≤ f.bcnt) (b : Byte) (v : Verdict) :
    (f.push b).acknowledge v = (f.acknowledge v).push b := by
  have hidle : f.push b = f.append b := settle_idle (.inr hr)
  have hmerge : ((f.acknowledge v).append b).settle = ((f.consume v).append b).settle :=
    settle_extend_settle (f := f.consume v) he [b]
  rw [hidle, acknowledge, consume_append h, ← hmerge, push]

/-- Settles O52: behind a held frame the byte only waits, and the verdict's settle merges into the push's. -/
theorem pushCommutesWithAcknowledge : Obligations.PushCommutesWithAcknowledge := by
  intro s b v hinv hr he hroom hv
  obtain ⟨-, hh, hwhole, -, -⟩ := hinv.framer.held hr
  have hpush : (Instr.frmPush b).Accepted s := ⟨hh, he, hroom.ne⟩
  have hack : (Instr.frmAck v).Accepted (((Instr.frmPush b).effect s).answer .ok 0) := by
    show (s.frm.append b).settle.frameReady = true
    rw [Framer.settle_idle (f := s.frm.append b) (.inr hr)]
    exact hr
  have hpush' : (Instr.frmPush b).Accepted (((Instr.frmAck v).effect s).answer .ok 0) := by
    have hshrink : (s.frm.acknowledge v).bcnt < s.cfg.bufCap :=
      (Framer.settle_bcnt_le _).trans_lt (lt_of_le_of_lt (by simp [Framer.bcnt]) hroom)
    exact ⟨by simp [Instr.frmEffect, Framer.acknowledge, hv, hh], by simp [Instr.frmEffect, Framer.acknowledge, he],
      hshrink.ne⟩
  refine ⟨({ s with frm := (s.frm.push b).acknowledge v } : State).answer .ok 0, ?_, ?_⟩
  · rw [issue_cons_of_accepted hpush rfl, issue_cons_of_accepted hack rfl]
    rfl
  · rw [issue_cons_of_accepted (i := .frmAck v) hr rfl, issue_cons_of_accepted hpush' rfl,
      Framer.acknowledge_push hr he hwhole]
    rfl

/-! ### Streams that hold no frame -/

/-- No whole frame with a correct CRC stands anywhere in a byte sequence. -/
def NoFrame (bs : List Byte) : Prop := ∀ k, ¬ FrameAtFront (bs.drop k)

/-- A frame at the front of FBUF, in the terms of the pass that checks it (42_framer.md R150, R156). -/
theorem Framer.frameAtFront_iff (f : Framer) :
    FrameAtFront f.fbuf ↔ f.fbuf.head? = some preamble ∧ 6 + f.lengthField.toNat ≤ f.bcnt ∧
      f.computedCrc f.lengthField.toNat = f.receivedCrc f.lengthField.toNat :=
  ⟨fun ⟨hhead, _, hb, hc⟩ => ⟨hhead, hb, hc⟩, fun ⟨hhead, hb, hc⟩ => ⟨hhead, le_trans (by omega) hb, hb, hc⟩⟩

/-- A whole frame at the front stays one with more bytes behind it. -/
theorem Framer.frameAtFront_extend {f : Framer} (h : FrameAtFront f.fbuf) (bs : List Byte) :
    FrameAtFront (f.extend bs).fbuf := by
  obtain ⟨hhead, hb, hc⟩ := f.frameAtFront_iff.mp h
  have hl : (f.extend bs).lengthField = f.lengthField := lengthField_extend bs (by omega)
  refine (frameAtFront_iff _).mpr ⟨head?_append_of_head? bs hhead, ?_, ?_⟩
  · rw [hl]
    exact hb.trans (f.bcnt_le_extend bs)
  · rw [hl, computedCrc_extend bs (by omega), receivedCrc_extend bs hb, hc]

theorem NoFrame.of_append_left {as bs : List Byte} (h : NoFrame (as ++ bs)) : NoFrame as := by
  intro k hframe
  refine h k ?_
  rw [List.drop_append]
  exact Framer.frameAtFront_extend (f := { Framer.reset with fbuf := as.drop k }) hframe _

theorem NoFrame.of_append_right {as bs : List Byte} (h : NoFrame (as ++ bs)) : NoFrame bs := by
  intro k hframe
  refine h (as.length + k) ?_
  rwa [List.drop_length_add_append]

theorem NoFrame.of_suffix {as bs : List Byte} (h : NoFrame bs) (hsuffix : as <:+ bs) : NoFrame as := by
  obtain ⟨pre, rfl⟩ := hsuffix
  exact h.of_append_right

/-- A settle over bytes that hold no frame ends with none held (42_framer.md R156, R157). -/
theorem Framer.settle_frameReady_of_noFrame {f : Framer} (hset : f.Settleable) (hr : f.frameReady = false)
    (hno : NoFrame f.fbuf) : f.settle.frameReady = false := by
  induction f using settle_induction with
  | exit f g h =>
    rw [settle_of_exit h, endOfData_frameReady]
    obtain ⟨-, rfl⟩ | ⟨-, -, ⟨-, -, rfl⟩ | ⟨-, -, rfl⟩ | ⟨hs, hb, hc, rfl⟩⟩ := pass_exit_cases h
    · exact hr
    · exact hr
    · exact hr
    · exact absurd (f.frameAtFront_iff.mpr ⟨hset.synced hs, hb, hc⟩) (hno 0)
  | again f g h ih =>
    rw [settle_of_again h]
    obtain ⟨hr', hdrop⟩ : g.frameReady = false ∧ g.fbuf <:+ f.fbuf := by
      obtain ⟨-, -, ⟨-, k, -, rfl⟩ | ⟨-, -, -, rfl⟩⟩ := pass_again_cases h <;> exact ⟨hr, List.drop_suffix _ _⟩
    exact ih (hset.again h) hr' (hno.of_suffix hdrop)

/-- The engine while a stream is pushed, `bs` still to come: no frame is held, and none is in what the framer still has to
examine. -/
structure Searching (s : State) (bs : List Byte) : Prop where
  inv : s.Inv
  noFrameHeld : s.frm.frameReady = false
  notHalted : s.frm.halted = false
  notEod : s.frm.eod = false
  noFrame : NoFrame (s.frm.fbuf ++ bs)

theorem searching_resetWith {cfg : Config} (hcfg : cfg.Legal) {bs : List Byte} (h : NoFrame bs) :
    Searching (State.resetWith cfg) bs :=
  ⟨resetWith_inv hcfg, rfl, rfl, rfl, h⟩

/-- 70_reset_and_hazards.md R257: a framer that is neither halted nor holding a frame has room for a byte. -/
theorem Framer.Inv.bcnt_lt {f : Framer} (h : f.Inv) (hh : f.halted = false) (hr : f.frameReady = false) :
    f.bcnt < 1029 := by
  obtain ⟨hnosync, hsynced⟩ := h.waiting hh hr
  have hl := f.lengthField.isLt
  cases hs : f.sync with
  | false =>
    have hzero := hnosync hs
    omega
  | true =>
    obtain ⟨-, hshort⟩ := hsynced hs
    omega

theorem Searching.accepted {s : State} {bs : List Byte} (h : Searching s bs) (b : Byte) :
    (Instr.frmPush b).Accepted s := by
  obtain ⟨hcap, -⟩ := h.inv.legal
  have hroom := h.inv.framer.bcnt_lt h.notHalted h.noFrameHeld
  exact ⟨h.notHalted, h.notEod, by omega⟩

/-- The search goes on after each byte. -/
theorem Searching.push {s : State} {b : Byte} {bs : List Byte} (h : Searching s (b :: bs)) :
    Searching (((Instr.frmPush b).effect s).answer .ok 0) bs := by
  have hno : NoFrame ((s.frm.append b).fbuf ++ bs) := by
    rw [Framer.append_fbuf, List.append_assoc]
    exact h.noFrame
  have hset : (s.frm.append b).Settleable := (h.inv.framer.settleable (h.inv.framer.not_ended (.inl h.notEod))).extend [b]
  exact
    { inv := (effect_inv h.inv (h.accepted b)).answer .ok 0
      noFrameHeld := Framer.settle_frameReady_of_noFrame hset h.noFrameHeld hno.of_append_left
      notHalted := (Framer.settle_halted _).trans h.notHalted
      notEod := (Framer.settle_eod _).trans h.notEod
      noFrame := hno.of_suffix (List.suffix_append_self_iff.mpr (Framer.settle_suffix (s.frm.append b))) }

/-- Every byte of the stream is pushed and no frame is found. -/
theorem Searching.issue_pushes {s : State} {bs : List Byte} (h : Searching s bs) :
    ∃ t, s.issue (bs.map Instr.frmPush) = some t ∧ Searching t [] := by
  induction bs generalizing s with
  | nil => exact ⟨s, rfl, h⟩
  | cons b bs ih =>
    rw [List.map_cons, issue_cons_of_accepted (h.accepted b) rfl]
    exact ih h.push

/-- Settles O53: the search goes on from reset through every byte, and ends with FRM_EOD as R162 has it. -/
theorem streamWithoutFramesHoldsNone : Obligations.StreamWithoutFramesHoldsNone := by
  intro cfg bs hcfg hno
  refine ⟨fun n => ?_, ?_⟩
  · have hprefix : NoFrame (bs.take n) := NoFrame.of_append_left (by rwa [List.take_append_drop])
    obtain ⟨u, hu, hsearch⟩ := (searching_resetWith hcfg hprefix).issue_pushes
    exact ⟨u, hu, hsearch.noFrameHeld⟩
  · obtain ⟨u, hu, hsearch⟩ := (searching_resetWith hcfg hno).issue_pushes
    obtain ⟨heod, -⟩ := frmEodEndsTheStream u hsearch.inv hsearch.notHalted hsearch.notEod
    rw [issue_append hu, issue_cons_of_next (heod hsearch.noFrameHeld)]
    exact ⟨_, rfl, rfl, rfl, rfl, hsearch.noFrameHeld, rfl⟩

end Sys2Proof.Machine
end

section
/-! PROOFS. NOP and RESET: the statements about 43_control.md. -/

namespace Sys2Proof.Machine

/-- RESET resets everything but the parameters and the port (43_control.md R201); the response of power-on reset is replaced
by the command's own. -/
theorem exec_reset (s : State) :
    exec .reset s = .next ({ State.resetWith s.cfg with port := s.port }.answer .ok 0) :=
  exec_of_accepted (i := .reset) trivial rfl

/-- CRC_INIT, FRM_RESET and CUR_CLEAR reset one unit each, and together every unit (70_reset_and_hazards.md R250). -/
theorem issue_unitResets (s : State) :
    s.issue [.crcInit, .frmReset, .curClear] = some ({ State.resetWith s.cfg with port := s.port }.answer .ok 0) := by
  rw [issue_cons_of_accepted (i := .crcInit) trivial rfl, issue_cons_of_accepted (i := .frmReset) trivial rfl,
    issue_cons_of_accepted (i := .curClear) trivial rfl]
  rfl

/-- A command idempotent in a state may be issued there twice for once. -/
theorem issue_twice_of_exec_again {i : Instr} {s t : State} (h : exec i s = .next t) (hagain : exec i t = .next t) :
    s.issue [i, i] = s.issue [i] := by
  rw [issue_cons_of_next h, issue_cons_of_next hagain, issue_cons_of_next h]

theorem encode_nop : encode .nop = 0 := by decide

/-! ### The obligations -/

/-- Settles O12: both ways of issuing the reset reach the state after power-on, and RESET is idempotent by O15. -/
theorem resetEqualsPowerOnAndTheUnitResets : Obligations.ResetEqualsPowerOnAndTheUnitResets := by
  intro s
  have hreset := exec_reset s
  obtain ⟨-, hidempotent, -⟩ := readsAndResetsAreIdempotent
  have hagain := hidempotent .reset s _ (.inl rfl) hreset
  refine ⟨hreset, ?_, (issue_twice_of_exec_again hreset hagain).symm⟩
  rw [issue_cons_of_next hreset, issue_unitResets, State.issue]

/-- Settles O13: a word with OP 0 whose operand area is 0 is the NOP word, and any other such word has a reserved bit set. -/
theorem nopChangesNothing : Obligations.NopChangesNothing := by
  refine ⟨encode_nop ▸ encodedCommandDecodesToItself .nop rfl, encode_nop, fun w hop hw => ?_,
    fun s => exec_of_accepted (i := .nop) trivial rfl⟩
  have hnop : opcodeField w = Instr.nop.opcode := hop
  rw [decode_of_opcode hnop, OperandFormat.decode_error_iff]
  refine .inl fun harea => hw ?_
  rw [← encode_eq_iff.mpr ⟨hnop, harea⟩, encode_nop]

end Sys2Proof.Machine
end

section
/-! PROOFS. Which status a command that fails is answered with, and why: the statements about 60_exceptions.md. -/

namespace Sys2Proof

open Machine

/-- In state s the command is answered with this status: the causes of 60_exceptions.md R221, each with the checks that
come before it in R225 passed. -/
inductive Instr.Fails (s : State) : Instr → Status → Prop
  /-- Log entry 9: a command that no word decodes to. -/
  | illFormed {i : Instr} (hwf : i.wf = false) : Fails s i .illegal
  | outOfBits {i : Instr} {n : Nat} (hwf : i.wf = true) (hn : i.bitCount = some n) (hlt : s.cur.remaining < n) :
      Fails s i .outOfBits
  | pushHalted {b : Byte} (hh : s.frm.halted = true) : Fails s (.frmPush b) .halted
  | pushEnded {b : Byte} (hh : s.frm.halted = false) (he : s.frm.eod = true) : Fails s (.frmPush b) .ended
  | pushFull {b : Byte} (hh : s.frm.halted = false) (he : s.frm.eod = false) (hf : s.frm.bcnt = s.cfg.bufCap) :
      Fails s (.frmPush b) .full
  | eodHalted (hh : s.frm.halted = true) : Fails s .frmEod .halted
  | eodEnded (hh : s.frm.halted = false) (he : s.frm.eod = true) : Fails s .frmEod .ended
  | ackNoFrame {v : Verdict} (hr : s.frm.frameReady = false) : Fails s (.frmAck v) .noFrame
  | rdpayNoFrame {i : BitVec 10} (hr : s.frm.frameReady = false) : Fails s (.frmRdpay i) .noFrame
  | rdpayRange {i : BitVec 10} (hr : s.frm.frameReady = true) (hi : s.frm.flen.toNat ≤ i.toNat) :
      Fails s (.frmRdpay i) .range
  | attachNoFrame (hr : s.frm.frameReady = false) : Fails s .curAttach .noFrame
  | appendFull {b : Byte} (hf : s.cur.clen = s.cfg.curCap) : Fails s (.curAppend b) .full

/-- Every command that is not accepted has a first cause in the order of 60_exceptions.md R225. -/
theorem Instr.exists_fails_of_not_accepted {i : Instr} {s : State} (h : ¬ i.Accepted s) : ∃ st, i.Fails s st := by
  cases i with
  | frmPush b =>
    cases hh : s.frm.halted with
    | true => exact ⟨_, .pushHalted hh⟩
    | false =>
      cases he : s.frm.eod with
      | true => exact ⟨_, .pushEnded hh he⟩
      | false => exact ⟨_, .pushFull hh he (by simpa [Accepted, hh, he] using h)⟩
  | frmEod =>
    cases hh : s.frm.halted with
    | true => exact ⟨_, .eodHalted hh⟩
    | false => exact ⟨_, .eodEnded hh (by simpa [Accepted, hh] using h)⟩
  | frmAck v => exact ⟨_, .ackNoFrame (by simpa [Accepted] using h)⟩
  | frmRdpay i =>
    cases hr : s.frm.frameReady with
    | true => exact ⟨_, .rdpayRange hr (by simpa [Accepted, hr] using h)⟩
    | false => exact ⟨_, .rdpayNoFrame hr⟩
  | curAttach => exact ⟨_, .attachNoFrame (by simpa [Accepted] using h)⟩
  | curAppend b => exact ⟨_, .appendFull (by simpa [Accepted] using h)⟩
  | curRdu n | curRds n =>
    cases hn : legalWidth n with
    | true => exact ⟨_, .outOfBits hn rfl (by simpa [Accepted, hn] using h)⟩
    | false => exact ⟨_, .illFormed hn⟩
  | curSkip n => exact ⟨_, .outOfBits rfl rfl (by simpa [Accepted] using h)⟩
  | _ => exact absurd trivial h

end Sys2Proof

namespace Sys2Proof.Machine

/-- Log entry 9: a read of more than 64 bits is answered as its word is. -/
theorem exec_of_not_wf {i : Instr} (h : i.wf = false) (s : State) : exec i s = .next (s.answer .illegal 0) := by
  cases i with
  | curRdu n | curRds n => exact if_neg (ne_true_of_eq_false h)
  | _ => cases h

/-- A command that fails is answered with its status and data 0, and nothing else changes (60_exceptions.md R222, R225). -/
theorem exec_of_fails {i : Instr} {s : State} {st : Status} (h : i.Fails s st) :
    exec i s = .next (s.answer st 0) := by
  cases h with
  | illFormed hwf => exact exec_of_not_wf hwf s
  | outOfBits hwf hn hlt =>
    obtain ⟨result, hexec, -⟩ := exec_eq_consumeBits hwf hn
    rw [hexec, State.consumeBits_of_lt result hlt]
  | pushHalted hh => exact if_pos hh
  | pushEnded hh he => exact (if_neg (ne_true_of_eq_false hh)).trans (if_pos he)
  | pushFull hh he hf =>
    exact (if_neg (ne_true_of_eq_false hh)).trans ((if_neg (ne_true_of_eq_false he)).trans (if_pos hf))
  | eodHalted hh => exact if_pos hh
  | eodEnded hh he => exact exec_frmEod_of_eod hh he
  | ackNoFrame hr | rdpayNoFrame hr | attachNoFrame hr => exact if_neg (ne_true_of_eq_false hr)
  | rdpayRange hr hi => exact (if_pos hr).trans (if_pos hi)
  | appendFull hf => exact if_pos hf

/-- Every response a step can give: to an illegal word, to a command that fails, or OK. Without OK nothing but the port and
the response changes. -/
theorem step_response_cases {s t : State} {w : Word} {rest : List Word} {r : Response} (hport : s.port = w :: rest)
    (hstep : step s = .next t) (hr : t.resp = some r) :
    (IllegalWord w ∧ r = ⟨.illegal, 0⟩ ∧ t = { s with port := rest, resp := some r }) ∨
    (∃ i st, decode w = .ok i ∧ i.Fails { s with port := rest } st ∧ r = ⟨st, 0⟩ ∧
      t = { s with port := rest, resp := some r }) ∨
    (∃ i, decode w = .ok i ∧ r.status = .ok) := by
  cases hdec : decode w with
  | error e =>
    rw [step_of_decode_error hport hdec] at hstep
    cases hstep
    cases hr
    exact .inl ⟨(decode_error_iff_illegalWord w).mp ⟨e, hdec⟩, rfl, rfl⟩
  | ok i =>
    rw [step_of_decode hport hdec] at hstep
    refine .inr ?_
    by_cases hacc : i.Accepted { s with port := rest }
    · obtain ⟨d, hd⟩ := (accepted_iff_resp_ok hstep).mp hacc
      rw [hd] at hr
      cases hr
      exact .inr ⟨i, rfl, rfl⟩
    · obtain ⟨st, hfail⟩ := Instr.exists_fails_of_not_accepted hacc
      rw [exec_of_fails hfail] at hstep
      cases hstep
      cases hr
      exact .inl ⟨i, st, rfl, hfail, rfl, rfl⟩

theorem not_illegalWord_of_decode {w : Word} {i : Instr} (h : decode w = .ok i) : ¬ IllegalWord w := by
  rw [← decode_error_iff_illegalWord, h]
  exact nofun

/-- A command that some word decodes to never fails ILLEGAL (60_exceptions.md R221). -/
theorem fails_ne_illegal {i : Instr} {s : State} {st : Status} (hfail : i.Fails s st) (hwf : i.wf = true) :
    st ≠ .illegal := by
  rintro rfl
  cases hfail with
  | illFormed hn => simp [hwf] at hn

/-! ### The obligations -/

/-- Settles O7: of the three responses of a step only OK comes with another state. -/
theorem failedCommandChangesNoState : Obligations.FailedCommandChangesNoState := by
  intro s t w rest r hport hstep hr hne
  obtain ⟨-, -, ht⟩ | ⟨-, -, -, -, -, ht⟩ | ⟨-, -, hok⟩ := step_response_cases hport hstep hr
  · exact ht
  · exact ht
  · exact absurd hok hne

/-- Settles O8: an illegal word is answered ILLEGAL and a command that decodes never is; each other status is read back from
the rules of `Instr.Fails` that give it. -/
theorem statusesHaveTheirCauses : Obligations.StatusesHaveTheirCauses := by
  refine ⟨⟨rfl, rfl, rfl, rfl, rfl, rfl, rfl, rfl⟩, fun s t w rest r hport hstep hr => ?_⟩
  obtain ⟨hill, rfl, -⟩ | ⟨i, st, hdec, hfail, rfl, -⟩ | ⟨i, hdec, hok⟩ := step_response_cases hport hstep hr
  · exact ⟨fun _ => rfl, iff_of_true rfl hill, nofun, nofun, nofun, nofun, nofun, nofun⟩
  · obtain ⟨hwf, -⟩ := decodedWordIsTheCommandsWord w i hdec
    refine ⟨fun _ => rfl, iff_of_false (fails_ne_illegal hfail hwf) (not_illegalWord_of_decode hdec),
      ?_, ?_, ?_, ?_, ?_, ?_⟩ <;> rintro rfl
    · cases hfail with
      | outOfBits _ hn hlt => exact ⟨i, _, hdec, hn, hlt⟩
    · cases hfail with
      | ackNoFrame hr => exact ⟨hr, .inl ⟨_, hdec⟩⟩
      | rdpayNoFrame hr => exact ⟨hr, .inr (.inl ⟨_, hdec⟩)⟩
      | attachNoFrame hr => exact ⟨hr, .inr (.inr hdec)⟩
    · cases hfail with
      | pushFull _ _ hf => exact .inl ⟨_, hdec, hf⟩
      | appendFull hf => exact .inr ⟨_, hdec, hf⟩
    · cases hfail with
      | pushHalted hh => exact ⟨hh, .inl ⟨_, hdec⟩⟩
      | eodHalted hh => exact ⟨hh, .inr hdec⟩
    · cases hfail with
      | pushEnded _ he => exact ⟨he, .inl ⟨_, hdec⟩⟩
      | eodEnded _ he => exact ⟨he, .inr hdec⟩
    · cases hfail with
      | rdpayRange _ hi => exact ⟨_, hdec, hi⟩
  · simp [hok, not_illegalWord_of_decode hdec]

/-- Settles O9: each clause is a rule of `Instr.Fails`; a halted framer of R159 holds no frame. -/
theorem failuresAreReportedInPriorityOrder : Obligations.FailuresAreReportedInPriorityOrder := fun _ =>
  ⟨fun _ hh => exec_of_fails (.pushHalted hh), fun _ hh he => exec_of_fails (.pushEnded hh he),
    fun _ hh he hf => exec_of_fails (.pushFull hh he hf), fun hh => exec_of_fails (.eodHalted hh),
    fun hh he => exec_of_fails (.eodEnded hh he), fun _ hr => exec_of_fails (.rdpayNoFrame hr),
    fun _ hr hi => exec_of_fails (.rdpayRange hr hi), fun _ hr => exec_of_fails (.ackNoFrame hr),
    fun hr => exec_of_fails (.attachNoFrame hr), fun _ hf => exec_of_fails (.appendFull hf),
    fun _ hinv hh => exec_of_fails (.ackNoFrame (hinv.framer.halted hh))⟩

end Sys2Proof.Machine
end

section
/-! PROOFS. What each reset command resets, and that a push needs a held frame to fail FULL: the statements about
70_reset_and_hazards.md. -/

namespace Sys2Proof.Machine

/-- The converse of `exec_of_fails`: a response other than OK has its cause in the state the command was given. -/
theorem fails_of_resp {i : Instr} {s t : State} {st : Status} {d : Data} (h : exec i s = .next t)
    (hr : t.resp = some ⟨st, d⟩) (hne : st ≠ .ok) : i.Fails s st := by
  have hnot : ¬ i.Accepted s := fun hacc => by
    obtain ⟨d', hok⟩ := (accepted_iff_resp_ok h).mp hacc
    cases hok.symm.trans hr
    exact hne rfl
  obtain ⟨st', hfail⟩ := Instr.exists_fails_of_not_accepted hnot
  rw [exec_of_fails hfail] at h
  cases h
  cases hr
  exact hfail

/-- Settles O11: each reset command is accepted in every state and writes its units' reset values. -/
theorem resetCommandsResetTheirUnitsOnly : Obligations.ResetCommandsResetTheirUnitsOnly := fun _ =>
  ⟨exec_of_accepted (i := .reset) trivial rfl, exec_of_accepted (i := .crcInit) trivial rfl,
    exec_of_accepted (i := .frmReset) trivial rfl, exec_of_accepted (i := .curClear) trivial rfl, rfl, rfl, rfl⟩

/-- Settles O48: the bounds are what R159 says of a waiting framer, and a push that fails FULL has found FBUF at a capacity
that a framer without a frame does not reach. -/
theorem pushIsNeverFullWithoutAFrame : Obligations.PushIsNeverFullWithoutAFrame := by
  intro s b hinv
  obtain ⟨hcap, -⟩ := hinv.legal
  refine ⟨fun hh hr => ?_, fun t d hexec hresp => ?_⟩
  · obtain ⟨hnosync, hsynced⟩ := hinv.framer.waiting hh hr
    have hl := s.frm.lengthField.isLt
    refine ⟨hnosync, fun hs => ?_, by omega, hcap⟩
    obtain ⟨-, hshort⟩ := hsynced hs
    omega
  · have hfull : (Instr.frmPush b).Fails s .full := fails_of_resp hexec hresp (by decide)
    cases hfull with
    | pushFull hh _ hf =>
      by_contra hr
      have hroom := hinv.framer.bcnt_lt hh (by simpa using hr)
      omega

end Sys2Proof.Machine
end
